-- ==== Sys2Proof/Word.lean ====
section
/-! DEFINITION. The value types of the block (00_scope.md R7, R8): the byte, the 16-bit word, the byte sequence. -/

namespace Sys2Proof

/-- A byte, 8 bits, values `00` to `FF` (R7). -/
abbrev Byte := BitVec 8

/-- A 16-bit word, values `0000` to `FFFF` (R7); bit 0 is the least significant bit. -/
abbrev Word16 := BitVec 16

/-- A byte sequence: a finite list of bytes, indices from 0 (R8). -/
abbrev Bytes := List Byte

end Sys2Proof
end

