-- ==== Sys2Proof/Config.lean ====
section
/-! DEFINITION. What is fixed for a machine and what its environment draws: the OPEN parameters of 92_eei_decisions.md
(`RXBUF_CAP`, `CNT_W`, `CHUNK_MAX`, `Timestamp`) and the free value of the spec (00_scope.md R11). The constants that the
document wires into the block (R5) stand in Machine/Constants.lean. -/

namespace Sys2Proof

/-- The content of a timestamp. The spec gives it no type, unit, epoch or order (60_exceptions.md R173, D7): the model
only compares two of them for equality.
DESIGN CHOICE (log entry 5): the opaque type is represented by natural numbers. -/
structure Timestamp where
  raw : Nat
  deriving DecidableEq, Repr, Inhabited

/-- The OPEN parameters of a finite build; `none` is the spec's default, unbounded (R6, D4, D5, D17). -/
structure Build where
  /-- `RXBUF_CAP`: the largest `len(RXBUF)` after the append of step 1 (D5). -/
  rxbufCap : Option Nat
  /-- `CNT_W`: bits per counter (D4). -/
  cntW : Option Nat
  /-- `CHUNK_MAX`: the largest chunk one `FEED` accepts (D17). -/
  chunkMax : Option Nat
  deriving DecidableEq, Repr

namespace Config

/-- The block of the spec: every OPEN parameter at its default, unbounded (R6). -/
def build : Build := { rxbufCap := none, cntW := none, chunkMax := none }

/-- FREE VALUE (R11, D7, U7; log entry 5): the `n`-th timestamp drawn from the environment. It has no body, so a
claim that mentions it holds for every clock: no law relates two draws. -/
opaque timestampDraw : Nat → Timestamp

end Config

end Sys2Proof
end

