-- ==== Sys2Proof/Machine/Flags.lean ====
section
/-! DEFINITION. The block has no status flags and no condition codes (10_state.md R30). Of the two local conditions the
rules test, one is a bit of the CRC register and stands here; the other is the result of `VERIFY`. -/

namespace Sys2Proof.Machine

/-- The low bit of the CRC register, tested before the shift (R30, 40_crc16.md R80). -/
def lowBit (r : Word16) : Bool := r.getLsbD 0

end Sys2Proof.Machine
end

