-- ==== Sys2Proof/Machine/Constants.lean ====
section
/-! DEFINITION. The constants the document fixes, "Constants, never mutated" (00_scope.md R5). -/

namespace Sys2Proof.Machine

/-- A 2-byte delimiter, recognised by byte equality of two adjacent bytes and by nothing else (30_encoding.md R61). -/
structure Delimiter where
  first : Byte
  second : Byte
  deriving DecidableEq, Repr

/-- The delimiter as it stands on the wire and in `RXBUF`: first byte first (R46 b). -/
def delimBytes (d : Delimiter) : Bytes := [d.first, d.second]

/-- `START`, the bytes `AA BB` (R5, R61). -/
def startMark : Delimiter := { first := 0xAA, second := 0xBB }

/-- `END`, the bytes `CC DD` (R5, R61; the misprint is resolved in 90_conflicts.md C2). -/
def endMark : Delimiter := { first := 0xCC, second := 0xDD }

/-- `LEN_START` (R5). -/
def lenStart : Nat := 2

/-- `LEN_END` (R5). -/
def lenEnd : Nat := 2

/-- `LEN_CRC`, the number of trailing CRC bytes (R5). -/
def lenCrc : Nat := 2

/-- `CRC_INIT` (R5; not the catalogue's value for the name CRC-16/ARC: R84, C1). -/
def crcInit : Word16 := 0xFFFF

/-- `CRC_POLY_REFLECTED` (R5). -/
def crcPoly : Word16 := 0xA001

end Sys2Proof.Machine
end

