-- ==== Sys2Proof/Machine/Operands.lean ====
section
/-! DEFINITION. The operand forms: the clamped slice of a byte sequence (00_scope.md R8), the fields of a 16-bit word
(R7) and the CRC field of a packet (30_encoding.md R62). -/

namespace Sys2Proof.Machine

/-- The clamped slice `s[a:b]` (R8): the bytes at the indices `i` with `a <= i < min(b, len(s))`; it never fails. -/
def slice (s : Bytes) (a b : Nat) : Bytes := (s.take b).drop a

/-- `hi8(w) = w[15:8]` (R7). -/
def hi8 (w : Word16) : Byte := w.extractLsb' 8 8

/-- `lo8(w) = w[7:0]` (R7). -/
def lo8 (w : Word16) : Byte := w.extractLsb' 0 8

/-- `zext_16(b)`: the byte widened with zeros in bits 15 to 8 (R7). -/
def zext16 (b : Byte) : Word16 := b.setWidth 16

/-- The CRC field of a frame: `CRC_HI` then `CRC_LO` (R62, encoding side). -/
def crcField (c : Word16) : Bytes := [hi8 c, lo8 c]

/-- The byte at index `i` (R8); the rules use it only inside the sequence. -/
def byteAt (s : Bytes) (i : Nat) : Byte := s.getD i 0

/-- `receivedCrc`: the trailing two bytes of a packet as a big-endian word (R62, decoding side, for `len(p) >= 2`). -/
def receivedCrc (p : Bytes) : Word16 :=
  (zext16 (byteAt p (p.length - 2)) <<< 8) ||| zext16 (byteAt p (p.length - 1))

/-- The payload of a verified packet: `p[2 : len(p) - 4]` (R63); the strip counts bytes and looks at none. -/
def stripPayload (p : Bytes) : Bytes := slice p lenStart (p.length - (lenEnd + lenCrc))

end Sys2Proof.Machine
end

