-- ==== Sys2Proof/Machine/Crc.lean ====
section
/-! DEFINITION. The CRC-16 generator: the 1-bit step, the 1-byte step and the whole computation (40_crc16.md R80 to
R82, R86). -/

namespace Sys2Proof.Machine

/-- `crc_shift(r)` (R80): a logical right shift by 1, and the constant XORed in when the bit shifted out is 1. -/
def crcShift (r : Word16) : Word16 :=
  if lowBit r then (r >>> 1) ^^^ crcPoly else r >>> 1

/-- `crc_update(r, b)` (R81): the byte into bits 7 to 0, then exactly eight shifts. -/
def crcUpdate (r : Word16) (b : Byte) : Word16 :=
  let r0 := r ^^^ zext16 b
  let r1 := crcShift r0
  let r2 := crcShift r1
  let r3 := crcShift r2
  let r4 := crcShift r3
  let r5 := crcShift r4
  let r6 := crcShift r5
  let r7 := crcShift r6
  crcShift r7

/-- `crc_fold(r, data)` (R86): the loop of R82 started from `r`, first byte first. -/
def crcFold (r : Word16) : Bytes → Word16
  | [] => r
  | b :: bs => crcFold (crcUpdate r b) bs

/-- `CRC16(data)` (R82): the register starts at `FFFF` at every call, and there is no final transform. -/
def crc16 (data : Bytes) : Word16 := crcFold crcInit data

end Sys2Proof.Machine
end

