-- ==== Sys2Proof/Machine/Codec.lean ====
section
/-! DEFINITION. The pure functions of the packet framer and checker: `ENCODE` and `VERIFY` (41_framecodec.md R90, R91). -/

namespace Sys2Proof.Machine

/-- `START ++ payload ++ END`, the bytes the CRC covers (30_encoding.md R64). Nothing is escaped (R66). -/
def frameBody (payload : Bytes) : Bytes := delimBytes startMark ++ payload ++ delimBytes endMark

/-- The wire form of a frame with given CRC bytes (R60). -/
def wireFrame (payload : Bytes) (crcHi crcLo : Byte) : Bytes := frameBody payload ++ [crcHi, crcLo]

/-- `ENCODE(payload)` (R90): `CRC_HI` first, then `CRC_LO`. -/
def encodeFrame (payload : Bytes) : Bytes :=
  frameBody payload ++ crcField (crc16 (frameBody payload))

/-- `VERIFY(packet)` (R91): the size check is `len < 2` and nothing else (90_conflicts.md C4); otherwise the trailing
two bytes, big-endian, are compared with the CRC of all the bytes before them. -/
def verifyPacket (packet : Bytes) : Bool :=
  if packet.length < 2 then false
  else receivedCrc packet == crc16 (slice packet 0 (packet.length - 2))

end Sys2Proof.Machine
end

