-- ==== Sys2Proof/Syntax/Operand.lean ====
section
/-! DEFINITION. The operand types of the operations that are not byte sequences: the counter selector of `RDCNT`
(43_counters.md R131) and the write result of `SEND` (R130). -/

namespace Sys2Proof

/-- The selector of `RDCNT`: one of the five counter names (R131). -/
inductive CounterSel where
  | totalSentBytes
  | totalReceivedBytes
  | totalPacketsSent
  | totalPacketsReceived
  | lostPackets
  deriving DecidableEq, Repr

/-- The transport's answer to `write(frame)`: `Failure`, or `Written(n)` for any natural number `n` (R130, R170, D15). -/
inductive WriteResult where
  | failure
  | written (n : Nat)
  deriving DecidableEq, Repr

end Sys2Proof
end

