-- ==== Sys2Proof/Syntax.lean ====
section
/-! DEFINITION. The instructions: one constructor per row of spec/opcode_table.json. -/

namespace Sys2Proof

/-- The seven operations of 30_encoding.md R68, with the inputs the spec gives them, and the three wire patterns the
table lists beside them. The write result of `SEND` is an environment draw (00_scope.md R11): it is an operand, so that
every claim holds for every draw (log entry 6). The timestamps of `FEED` are drawn inside the step (log entry 5). -/
inductive Instr where
  /-- `CRC16 data` (40_crc16.md R82). -/
  | crc16 (data : Bytes)
  /-- `ENCODE payload` (41_framecodec.md R90). -/
  | encode (payload : Bytes)
  /-- `VERIFY packet` (R91). -/
  | verify (packet : Bytes)
  /-- `FEED newBytes` (42_reassembler.md R100). -/
  | feed (newBytes : Bytes)
  /-- `SEND payload` with the transport's answer (43_counters.md R130). -/
  | send (payload : Bytes) (wr : WriteResult)
  /-- `RDCNT sel` (R131). -/
  | rdcnt (sel : CounterSel)
  /-- `RESET` (70_reset_and_hazards.md R180). -/
  | reset
  /-- The row `START`: the transport delivers exactly the start delimiter as one chunk (R61; log entry 1). -/
  | startDelim
  /-- The row `END`: the transport delivers exactly the end delimiter as one chunk (R61; log entry 1). -/
  | endDelim
  /-- The row `FRAME`: the transport delivers exactly one frame as one chunk (R60; log entry 1). -/
  | frame (payload : Bytes) (crcHi crcLo : Byte)
  deriving DecidableEq, Repr

end Sys2Proof
end

