-- ==== Sys2Proof/WellFormed.lean ====
section
/-! DEFINITION. Which instructions are well formed. Every byte sequence, every selector and every write result is a
legal input of its operation (30_encoding.md R66, R67, D8, D15), so the only check is the one the format itself makes:
the CRC bytes of a `FRAME` are those of its own contents (R60). -/

namespace Sys2Proof

/-- The CRC bytes of a wire frame are bits 15 to 8 and 7 to 0 of the CRC over `START ++ payload ++ END` (R60, R64). -/
def frameCrcMatches (payload : Bytes) (crcHi crcLo : Byte) : Bool :=
  [crcHi, crcLo] == Machine.crcField (Machine.crc16 (Machine.frameBody payload))

/-- The instruction is one the encodings of the spec can express. -/
def wellFormed : Instr → Bool
  | .crc16 _ => true
  | .encode _ => true
  | .verify _ => true
  | .feed _ => true
  | .send _ _ => true
  | .rdcnt _ => true
  | .reset => true
  | .startDelim => true
  | .endDelim => true
  | .frame payload crcHi crcLo => frameCrcMatches payload crcHi crcLo

end Sys2Proof
end

