-- ==== Sys2Proof/Decode.lean ====
section
/-! DEFINITION. How the host selects an instruction, and the encoder beside it. The spec has two encodings and no
binary command encoding (30_encoding.md, opening; 92_eei_decisions.md D2): the written syntax of an operation (R69),
which selects it by name, and the wire patterns of the bytes the transport delivers (R60, R61). -/

namespace Sys2Proof

/-- What the host presents to the block: an operation by name with its inputs, in the written syntax of R69 (log
entry 2), or one chunk the transport delivers (60_exceptions.md R170, R176 `RX_IN`; log entry 1). -/
inductive Request where
  | line (text : List Char)
  | chunk (bytes : Bytes)
  deriving DecidableEq, Repr

/-- Why a line is no operation of R68 with its inputs. -/
inductive DecodeError where
  /-- The line holds no name. -/
  | emptyLine
  /-- The name is none of R68's and not `LOOPBACK` (R69). -/
  | unknownOperation
  /-- A byte sequence is missing (an empty one is written `[]`) or holds a token that is not two hexadecimal digits. -/
  | notAByteSequence
  /-- `SEND` without exactly one write result after `->`, or with one that is not `Failure` or `Written(n)`. -/
  | notAWriteResult
  /-- `RDCNT` without exactly one of the five counter names (R131). -/
  | notACounter
  /-- `RESET` with an operand (R180: none). -/
  | extraOperand
  deriving DecidableEq, Repr

/-- A word of a line. -/
abbrev Token := List Char

/-! ### The words of a line -/

/-- The line cut at every space. -/
def splitSpaces : List Char → List Token
  | [] => [[]]
  | c :: cs =>
    if c = ' ' then [] :: splitSpaces cs
    else
      match splitSpaces cs with
      | [] => [[c]]
      | t :: ts => (c :: t) :: ts

/-- The words of a line: what stands between spaces, empty pieces left out. -/
def lineWords (text : List Char) : List Token := (splitSpaces text).filter fun t => !t.isEmpty

/-- The words joined by one space. -/
def joinWords : List Token → List Char
  | [] => []
  | [t] => t
  | t :: ts => t ++ ' ' :: joinWords ts

/-- `=>`: what follows it on a line is the expected output, no input (R69). -/
def tokResult : Token := "=>".toList

/-- `->`: what follows it on a `SEND` line is the write result (R69). -/
def tokArrow : Token := "->".toList

/-- `[]`: the empty byte sequence (R69). -/
def tokEmpty : Token := "[]".toList

/-! ### Bytes in hexadecimal (R7, R69) -/

/-- The digit of a number below 16. -/
def hexDigit (n : Nat) : Char :=
  match n with
  | 0 => '0' | 1 => '1' | 2 => '2' | 3 => '3' | 4 => '4' | 5 => '5' | 6 => '6' | 7 => '7'
  | 8 => '8' | 9 => '9' | 10 => 'A' | 11 => 'B' | 12 => 'C' | 13 => 'D' | 14 => 'E' | _ => 'F'

/-- The value of a hexadecimal digit, capitals as the spec writes them. -/
def hexValue (c : Char) : Option Nat :=
  if c = '0' then some 0 else if c = '1' then some 1 else if c = '2' then some 2 else if c = '3' then some 3
  else if c = '4' then some 4 else if c = '5' then some 5 else if c = '6' then some 6 else if c = '7' then some 7
  else if c = '8' then some 8 else if c = '9' then some 9 else if c = 'A' then some 10 else if c = 'B' then some 11
  else if c = 'C' then some 12 else if c = 'D' then some 13 else if c = 'E' then some 14 else if c = 'F' then some 15
  else none

/-- A byte as two hexadecimal digits, high digit first. -/
def encodeByte (b : Byte) : Token := [hexDigit (b.toNat / 16), hexDigit (b.toNat % 16)]

/-- The byte that two hexadecimal digits write. -/
def decodeByte : Token → Option Byte
  | [h, l] =>
    match hexValue h, hexValue l with
    | some x, some y => some (BitVec.ofNat 8 (16 * x + y))
    | _, _ => none
  | _ => none

/-- A byte sequence as words; the empty one is written `[]` (R69). -/
def encodeBytes (bs : Bytes) : List Token :=
  match bs with
  | [] => [tokEmpty]
  | b :: rest => encodeByte b :: rest.map encodeByte

/-- The bytes that words of two hexadecimal digits write. -/
def decodeByteWords : List Token → Option Bytes
  | [] => some []
  | t :: ts =>
    match decodeByte t, decodeByteWords ts with
    | some b, some bs => some (b :: bs)
    | _, _ => none

/-- The byte sequence that words write: `[]`, or at least one byte. -/
def decodeBytes (ts : List Token) : Except DecodeError Bytes :=
  if ts = [tokEmpty] then .ok []
  else if ts = [] then .error .notAByteSequence
  else
    match decodeByteWords ts with
    | some bs => .ok bs
    | none => .error .notAByteSequence

/-! ### The write result of `SEND` (R69, R130) -/

/-- The decimal digits of a number below 10 to the power `fuel`, most significant first. -/
def decimalDigits : Nat → Nat → List Char
  | 0, n => [hexDigit (n % 10)]
  | fuel + 1, n => if n < 10 then [hexDigit n] else decimalDigits fuel (n / 10) ++ [hexDigit (n % 10)]

/-- A natural number in decimal. -/
def encodeDecimal (n : Nat) : List Char := decimalDigits n n

/-- The value of a decimal digit. -/
def decimalValue (c : Char) : Option Nat :=
  match hexValue c with
  | some v => if v < 10 then some v else none
  | none => none

/-- The decimal digits read on from the value `acc` of those before them. -/
def decimalFrom (acc : Nat) : List Char → Option Nat
  | [] => some acc
  | c :: cs =>
    match decimalValue c with
    | some v => decimalFrom (10 * acc + v) cs
    | none => none

/-- The number that one or more decimal digits write. -/
def decodeDecimal (cs : List Char) : Option Nat :=
  match cs with
  | [] => none
  | c :: rest => decimalFrom 0 (c :: rest)

/-- `Failure`. -/
def tokFailure : Token := "Failure".toList

/-- `Written(`, the opening of `Written(n)`. -/
def tokWritten : Token := "Written(".toList

/-- A write result as a word (R69). -/
def encodeWriteResult : WriteResult → Token
  | .failure => tokFailure
  | .written n => tokWritten ++ encodeDecimal n ++ [')']

/-- The write result that a word writes. -/
def decodeWriteResult (t : Token) : Except DecodeError WriteResult :=
  if t = tokFailure then .ok .failure
  else if tokWritten.isPrefixOf t && (t.getLast? == some ')') then
    match decodeDecimal (t.drop tokWritten.length).dropLast with
    | some n => .ok (.written n)
    | none => .error .notAWriteResult
  else .error .notAWriteResult

/-! ### The names (R68, R131) -/

/-- The five counter names (R131). -/
def selectorName : CounterSel → Token
  | .totalSentBytes => "totalSentBytes".toList
  | .totalReceivedBytes => "totalReceivedBytes".toList
  | .totalPacketsSent => "totalPacketsSent".toList
  | .totalPacketsReceived => "totalPacketsReceived".toList
  | .lostPackets => "lostPackets".toList

/-- The selector that a word names. -/
def decodeSelector (t : Token) : Except DecodeError CounterSel :=
  if t = selectorName .totalSentBytes then .ok .totalSentBytes
  else if t = selectorName .totalReceivedBytes then .ok .totalReceivedBytes
  else if t = selectorName .totalPacketsSent then .ok .totalPacketsSent
  else if t = selectorName .totalPacketsReceived then .ok .totalPacketsReceived
  else if t = selectorName .lostPackets then .ok .lostPackets
  else .error .notACounter

/-- The name `CRC16` (R68). -/
def nameCrc16 : Token := "CRC16".toList
/-- The name `ENCODE` (R68). -/
def nameEncode : Token := "ENCODE".toList
/-- The name `VERIFY` (R68). -/
def nameVerify : Token := "VERIFY".toList
/-- The name `FEED` (R68). -/
def nameFeed : Token := "FEED".toList
/-- The name `SEND` (R68). -/
def nameSend : Token := "SEND".toList
/-- The name `RDCNT` (R68). -/
def nameRdcnt : Token := "RDCNT".toList
/-- The name `RESET` (R68). -/
def nameReset : Token := "RESET".toList
/-- The name of the composite form `LOOPBACK` (R69). -/
def nameLoopback : Token := "LOOPBACK".toList

/-! ### The decoder -/

/-- The words after `SEND`: the payload, `->`, the write result (R69). -/
def decodeSend (args : List Token) : Except DecodeError Instr :=
  match decodeBytes (args.takeWhile fun t => t != tokArrow) with
  | .error e => .error e
  | .ok payload =>
    match args.dropWhile fun t => t != tokArrow with
    | [_, w] => (decodeWriteResult w).map (Instr.send payload)
    | _ => .error .notAWriteResult

/-- The word after `RDCNT`: one counter name (R131). -/
def decodeRdcnt (args : List Token) : Except DecodeError Instr :=
  match args with
  | [t] => (decodeSelector t).map Instr.rdcnt
  | _ => .error .notACounter

/-- Nothing stands after `RESET` (R180). -/
def decodeReset (args : List Token) : Except DecodeError Instr :=
  match args with
  | [] => .ok .reset
  | _ :: _ => .error .extraOperand

/-- The operation that a name selects, its inputs read from the words after it (R68, R69). -/
def decodeOperation (name : Token) (args : List Token) : Except DecodeError Instr :=
  if name = nameCrc16 then (decodeBytes args).map Instr.crc16
  else if name = nameEncode then (decodeBytes args).map Instr.encode
  else if name = nameVerify then (decodeBytes args).map Instr.verify
  else if name = nameFeed then (decodeBytes args).map Instr.feed
  else if name = nameSend then decodeSend args
  else if name = nameRdcnt then decodeRdcnt args
  else if name = nameReset then decodeReset args
  else if name = nameLoopback then (decodeBytes args).map fun p => Instr.feed (Machine.encodeFrame p)
  else .error .unknownOperation

/-- A line of the written syntax (R69): the name, its inputs, and after `=>` the expected output, which is no input. -/
def decodeLine (text : List Char) : Except DecodeError Instr :=
  match (lineWords text).takeWhile fun t => t != tokResult with
  | [] => .error .emptyLine
  | name :: args => decodeOperation name args

/-- The chunk is a frame in the sense of R60: `START`, a payload, `END`, and the CRC of those bytes. -/
def isFrame (c : Bytes) : Bool := decide (6 ≤ c.length) && c == Machine.encodeFrame (Machine.stripPayload c)

/-- A delivered chunk: exactly the start delimiter, exactly the end delimiter, exactly one frame, or any other bytes.
No chunk is illegal (R67), so this never refuses (log entry 1). -/
def decodeChunk (c : Bytes) : Instr :=
  if c = Machine.delimBytes Machine.startMark then .startDelim
  else if c = Machine.delimBytes Machine.endMark then .endDelim
  else if isFrame c then
    .frame (Machine.stripPayload c) (Machine.byteAt c (c.length - 2)) (Machine.byteAt c (c.length - 1))
  else .feed c

/-- The instruction that the host's request selects. -/
def decode : Request → Except DecodeError Instr
  | .line text => decodeLine text
  | .chunk bytes => .ok (decodeChunk bytes)

/-! ### The table's numbering of bits -/

/-- `n` bytes of a number, the most significant first: the table writes a wire pattern "first byte on the wire
leftmost" and the reader reads it as one number whose bit 0 is the least significant (log entry 11). -/
def wireBytes : Nat → Nat → Bytes
  | 0, _ => []
  | n + 1, w => BitVec.ofNat 8 (w >>> (8 * n)) :: wireBytes n w

/-- The bytes of a row of spec/opcode_table.json that the table gives `nbits` bits: one word of that width, the word's
most significant byte first on the wire. -/
def tableChunk (nbits w : Nat) : Bytes := wireBytes ((nbits + 7) / 8) w

/-- What the decoder reads from a wire pattern whose bits, as the table numbers them, are `w`. The seven operations have
no bits in the table (`encoding` is the empty string): no number selects one, and `nbits = 0` is the empty chunk. -/
def decodeTableWord (nbits w : Nat) : Option Instr :=
  match decode (.chunk (tableChunk nbits w)) with
  | .ok i => some i
  | .error _ => none

/-! ### The encoder -/

/-- A line of the written syntax: a name and its operands. -/
def encodeLine (name : Token) (args : List Token) : Request := .line (joinWords (name :: args))

/-- How the host presents an instruction: an operation as its line (R69), a wire pattern as the chunk of its bytes
(R60, R61). -/
def encode : Instr → Request
  | .crc16 data => encodeLine nameCrc16 (encodeBytes data)
  | .encode payload => encodeLine nameEncode (encodeBytes payload)
  | .verify packet => encodeLine nameVerify (encodeBytes packet)
  | .feed newBytes => encodeLine nameFeed (encodeBytes newBytes)
  | .send payload wr => encodeLine nameSend (encodeBytes payload ++ [tokArrow, encodeWriteResult wr])
  | .rdcnt sel => encodeLine nameRdcnt [selectorName sel]
  | .reset => encodeLine nameReset []
  | .startDelim => .chunk (Machine.delimBytes Machine.startMark)
  | .endDelim => .chunk (Machine.delimBytes Machine.endMark)
  | .frame payload crcHi crcLo => .chunk (Machine.wireFrame payload crcHi crcLo)

end Sys2Proof
end

