-- ==== Sys2Proof/Machine/State.lean ====
section
/-! DEFINITION. The state of the block, the values it returns, the reasons a step can stop, and the state after reset. -/

namespace Sys2Proof.Machine

/-- An element of the list `FEED` returns (30_encoding.md R70, 60_exceptions.md R161, R162). -/
inductive FrameEvent where
  /-- `PayloadReceived(payload)` (R161). -/
  | payloadReceived (payload : Bytes)
  /-- `CorruptPacket(rawBytes, timestamp)`, the document's `LostPacketRecord` (R162). -/
  | corruptPacket (rawBytes : Bytes) (timestamp : Timestamp)
  deriving DecidableEq, Repr

/-- The value an operation returns to the host (00_scope.md R16), by the channels of 60_exceptions.md R176. -/
inductive Response where
  /-- `FN_CRC16` (R82). -/
  | crc (w : Word16)
  /-- `FN_ENCODE` (R90). -/
  | frame (bytes : Bytes)
  /-- `FN_VERIFY` (R91). -/
  | verdict (ok : Bool)
  /-- `EVT_OUT`: the ordered event list of one `FEED` (R111). -/
  | events (list : List FrameEvent)
  /-- `TX_OUT` and `TX_RES`: the frame given to the transport and its answer (R130). -/
  | sent (frame : Bytes) (wr : WriteResult)
  /-- `CNT_RD` (R131). -/
  | counter (n : Nat)
  /-- `RESET` returns nothing (R180); this only marks that it was performed. -/
  | resetDone
  deriving DecidableEq, Repr

/-- The six elements of 10_state.md (00_scope.md R14), and after them three fields of the MODEL'S OWN. -/
structure State where
  /-- `RXBUF`, the receive buffer, index 0 the oldest byte (R22, R40; log entry 10). -/
  rxbuf : Bytes
  /-- `totalSentBytes` (R23). -/
  totalSentBytes : Nat
  /-- `totalReceivedBytes` (R24). -/
  totalReceivedBytes : Nat
  /-- `totalPacketsSent` (R25). -/
  totalPacketsSent : Nat
  /-- `totalPacketsReceived` (R26). -/
  totalPacketsReceived : Nat
  /-- `lostPackets` (R27). -/
  lostPackets : Nat
  /-- The model's own: what the host has presented and the block has not yet taken, in order (log entry 3). -/
  inbox : List Request
  /-- The model's own: the values returned to the host so far, oldest first, the observation of R16 (log entry 4). -/
  outbox : List Response
  /-- The model's own: how many timestamps have been drawn; the next draw is `Config.timestampDraw tsDraws` (log entry 5). -/
  tsDraws : Nat
  deriving DecidableEq, Repr

/-- The block has no fault: "No exceptions/panics originate from the core under any byte input" (60_exceptions.md R166: a
model has no fault constructor). Nobody raises one; safe. -/
inductive Fault where
  deriving DecidableEq, Repr

/-- The reasons a step can have no meaning. -/
inductive Refusal where
  /-- An instruction that has no meaning yet; raised by no arm of `exec` (all are modelled). Safe. -/
  | notModelled (mnemonic : String)
  /-- Raised by `step`: the line the host presents names no operation of 30_encoding.md R68 with its inputs, so there is
  no operation to perform (log entry 2). Safe. -/
  | notAnOperation (why : DecodeError)
  /-- Raised by `FEED` in a finite build whose `RXBUF_CAP` the append would exceed (93_implementation_defined.md U1, D5);
  never in the spec's block. Safe. -/
  | rxbufOverflow
  /-- Raised by `FEED` and `SEND` in a finite build in which a counter would reach `2^CNT_W` (U2, D4, R135); never in the
  spec's block. Safe. -/
  | counterOverflow
  /-- Raised by `FEED` in a finite build whose `CHUNK_MAX` the chunk exceeds (D17); never in the spec's block. Safe. -/
  | chunkTooLong
  deriving DecidableEq, Repr

/-- The state after reset and at power-on (10_state.md R32, 70_reset_and_hazards.md R180): the buffer empty, the counters
0 (the spec's own choice D3; log entry 7); nothing presented, nothing returned, no timestamp drawn (log entries 3 to 5). -/
def State.reset : State :=
  { rxbuf := []
    totalSentBytes := 0
    totalReceivedBytes := 0
    totalPacketsSent := 0
    totalPacketsReceived := 0
    lostPackets := 0
    inbox := []
    outbox := []
    tsDraws := 0 }

end Sys2Proof.Machine
end

