-- ==== Sys2Proof/Machine/Ops.lean ====
section
/-! DEFINITION. The named operations over the receive buffer, the counters and the returned values. The block takes no
exception (60_exceptions.md R166, R167) and returns from none (R171); what takes their place is the check of a candidate
packet with the one event it emits, `checkAndEmit`, written once here (R110, R160, R169). -/

namespace Sys2Proof.Machine

/-! ### The delimiter search (20_memory.md R44, R45) -/

/-- The least index at which the two bytes of `d` stand next to each other. -/
def findFirst (d : Delimiter) : Bytes → Option Nat
  | [] => none
  | a :: rest =>
    match rest with
    | [] => none
    | b :: _ => if a = d.first ∧ b = d.second then some 0 else (findFirst d rest).map (· + 1)

/-- `find(s, pat, from)` (R44): the least index `i >= start` at which `d` occurs in `s`; both its bytes must be there. -/
def find (s : Bytes) (d : Delimiter) (start : Nat) : Option Nat :=
  (findFirst d (s.drop start)).map (· + start)

/-- `contains(s, pat)` (R45). -/
def contains (s : Bytes) (d : Delimiter) : Bool := (find s d 0).isSome

/-- A quiescent byte sequence (42_reassembler.md R103): no `START`, or no `END` at or after the first `START`'s end. -/
def quiescent (b : Bytes) : Bool :=
  match find b startMark 0 with
  | none => true
  | some i => (find b endMark (i + lenStart)).isNone

/-! ### The receive buffer (20_memory.md R41 to R43) -/

/-- `BufAppend(v)` (R41). -/
def bufAppend (s : State) (v : Bytes) : State := { s with rxbuf := s.rxbuf ++ v }

/-- `MemRead(addr, n)` (R42): the clamped slice; no side effect, never a fault. -/
def memRead (s : State) (addr n : Nat) : Bytes := slice s.rxbuf addr (addr + n)

/-- `BufDropFront(k)` (R43): the buffer becomes empty when it holds no more than `k` bytes. -/
def bufDropFront (s : State) (k : Nat) : State := { s with rxbuf := s.rxbuf.drop k }

/-! ### The counters (10_state.md R23 to R27, 43_counters.md R132) -/

/-- Step 2f of `FEED` (42_reassembler.md R109): one more candidate packet, and its bytes. -/
def countReceived (s : State) (packet : Bytes) : State :=
  { s with
    totalReceivedBytes := s.totalReceivedBytes + packet.length
    totalPacketsReceived := s.totalPacketsReceived + 1 }

/-- One more candidate packet that failed its check (R110). -/
def countLost (s : State) : State := { s with lostPackets := s.lostPackets + 1 }

/-- A successful write of `n` bytes (R130): both sent counters in one indivisible step. -/
def countSent (s : State) (n : Nat) : State :=
  { s with
    totalSentBytes := s.totalSentBytes + n
    totalPacketsSent := s.totalPacketsSent + 1 }

/-- The value of the counter a selector names (R131). -/
def readCounter (s : State) : CounterSel → Nat
  | .totalSentBytes => s.totalSentBytes
  | .totalReceivedBytes => s.totalReceivedBytes
  | .totalPacketsSent => s.totalPacketsSent
  | .totalPacketsReceived => s.totalPacketsReceived
  | .lostPackets => s.lostPackets

/-- `RESET` on the six elements (70_reset_and_hazards.md R180). The model's own fields are the host's and stay. -/
def clearAll (s : State) : State :=
  { s with
    rxbuf := []
    totalSentBytes := 0
    totalReceivedBytes := 0
    totalPacketsSent := 0
    totalPacketsReceived := 0
    lostPackets := 0 }

/-! ### Returned values and draws (00_scope.md R11, R16) -/

/-- The operation returns `r` to the host. -/
def giveBack (s : State) (r : Response) : State := { s with outbox := s.outbox ++ [r] }

/-- The timestamp the environment supplies now: a FREE VALUE (R11, D7; log entry 5). -/
def nextTimestamp (s : State) : Timestamp := Config.timestampDraw s.tsDraws

/-- The draw is used up; the next one is another. -/
def drawTimestamp (s : State) : State := { s with tsDraws := s.tsDraws + 1 }

/-- Step 2g of `FEED` (R110): check a candidate packet and emit its one event. A packet that passes gives its payload and
changes no counter; one that fails is counted and reported whole, with one timestamp drawn. -/
def checkAndEmit (s : State) (packet : Bytes) : State × FrameEvent :=
  if verifyPacket packet then (s, .payloadReceived (stripPayload packet))
  else (drawTimestamp (countLost s), .corruptPacket packet (nextTimestamp s))

/-! ### The limits of a finite build (93_implementation_defined.md U1, U2; 92_eei_decisions.md D4, D5, D17) -/

/-- A size a build allows: any at all by default. -/
def within (limit : Option Nat) (n : Nat) : Bool :=
  match limit with
  | none => true
  | some m => decide (n ≤ m)

/-- A counter value a build can hold: any at all by default, below `2^CNT_W` otherwise (D4). -/
def counterFits (w : Option Nat) (n : Nat) : Bool :=
  match w with
  | none => true
  | some k => decide (n < 2 ^ k)

/-- Every counter of the state is one the build can hold. -/
def countersFit (b : Build) (s : State) : Bool :=
  counterFits b.cntW s.totalSentBytes && counterFits b.cntW s.totalReceivedBytes &&
    counterFits b.cntW s.totalPacketsSent && counterFits b.cntW s.totalPacketsReceived &&
    counterFits b.cntW s.lostPackets

/-- An operation that counts completes, or the finite build refuses: it never wraps and never saturates (R135, U2). -/
def completeIn (b : Build) (t : State) : Host.Outcome State Fault Refusal :=
  if countersFit b t then .next t else .refused .counterOverflow

end Sys2Proof.Machine
end

