-- ==== Sys2Proof/Machine/Counters.lean ====
section
/-! DEFINITION. The meanings of the two operations that touch only the counters: `SEND` and `RDCNT` (43_counters.md). -/

namespace Sys2Proof.Machine

/-- The counter update of `SEND` for the transport's answer (R130): on `Written(n)` both sent counters grow, by `n` bytes
(the spec's own choice D6; log entry 9) and one packet; on `Failure` nothing changes (60_exceptions.md R163). -/
def accountWrite (s : State) : WriteResult → State
  | .failure => s
  | .written n => countSent s n

/-- `SEND payload` in a build: the frame and the transport's answer are returned whatever the answer (R130). -/
def sendIn (b : Build) (payload : Bytes) (wr : WriteResult) (s : State) : Host.Outcome State Fault Refusal :=
  completeIn b (giveBack (accountWrite s wr) (.sent (encodeFrame payload) wr))

/-- `SEND payload` (R130) in the spec's block, whose counters have no width. -/
def execSend (payload : Bytes) (wr : WriteResult) (s : State) : Host.Outcome State Fault Refusal :=
  sendIn Config.build payload wr s

/-- `RDCNT sel` (R131): the counter's current value is returned; nothing changes. -/
def execRdcnt (sel : CounterSel) (s : State) : Host.Outcome State Fault Refusal :=
  .next (giveBack s (.counter (readCounter s sel)))

end Sys2Proof.Machine
end

