-- ==== Sys2Proof/Machine/Crc16.lean ====
section
/-! DEFINITION. The meaning of `CRC16`. -/

namespace Sys2Proof.Machine

/-- `CRC16 data` (40_crc16.md R82): the CRC of the data is returned; no state of the block is read or written. -/
def execCrc16 (data : Bytes) (s : State) : Host.Outcome State Fault Refusal :=
  .next (giveBack s (.crc (crc16 data)))

end Sys2Proof.Machine
end

