-- ==== Sys2Proof/Machine/FrameCodec.lean ====
section
/-! DEFINITION. The meanings of `ENCODE` and `VERIFY`, "Pure, no shared state" (41_framecodec.md). -/

namespace Sys2Proof.Machine

/-- `ENCODE payload` (R90): the frame is returned; it always succeeds, and no counter moves (90_conflicts.md C5). -/
def execEncode (payload : Bytes) (s : State) : Host.Outcome State Fault Refusal :=
  .next (giveBack s (.frame (encodeFrame payload)))

/-- `VERIFY packet` (R91): the boolean is returned; a false result is a value, not a failure. -/
def execVerify (packet : Bytes) (s : State) : Host.Outcome State Fault Refusal :=
  .next (giveBack s (.verdict (verifyPacket packet)))

end Sys2Proof.Machine
end

