-- ==== Sys2Proof/Machine/Reassembler.lean ====
section
/-! DEFINITION. The delimiter detector and receive-buffer state machine: `FEED` (42_reassembler.md R100), and the wire
patterns `START`, `END` and `FRAME`, which reach the block only as chunks the transport delivers (R170; log entry 1). -/

namespace Sys2Proof.Machine

/-- Steps 2d to 2g for a `START` at `start` and an `END` at `stop` (R107 to R110): cut the packet, advance the buffer,
account, check and emit. -/
def extractAt (s : State) (start stop : Nat) : State × FrameEvent :=
  let packet := memRead s start (stop - start + (lenEnd + lenCrc))
  checkAndEmit (countReceived (bufDropFront s (stop + (lenEnd + lenCrc))) packet) packet

/-- One pass of the loop (R102, R104 to R106): the loop condition, the two searches, and the extraction; `none` when the
loop stops, the state left as it is. -/
def extractNext (s : State) : Option (State × FrameEvent) :=
  if contains s.rxbuf startMark && contains s.rxbuf endMark then
    match find s.rxbuf startMark 0 with
    | none => none
    | some start =>
      match find s.rxbuf endMark (start + lenStart) with
      | none => none
      | some stop => some (extractAt s start stop)
  else none

/-- The loop of step 2, at most `fuel` passes; the events in the order they are emitted (R111, R168). -/
def feedLoop : Nat → State → State × List FrameEvent
  | 0, s => (s, [])
  | fuel + 1, s =>
    match extractNext s with
    | none => (s, [])
    | some (t, e) =>
      let r := feedLoop fuel t
      (r.1, e :: r.2)

/-- `FEED(newBytes)` (R100): append once, then loop. Every pass removes bytes, so the length of the buffer bounds the
number of passes (R114; log entry 14). -/
def feed (s : State) (newBytes : Bytes) : State × List FrameEvent :=
  feedLoop (bufAppend s newBytes).rxbuf.length (bufAppend s newBytes)

/-- `FEED` in a build: a finite build refuses a chunk, a buffer or a counter beyond its limits (D4, D5, D17). -/
def feedIn (b : Build) (newBytes : Bytes) (s : State) : Host.Outcome State Fault Refusal :=
  if !within b.chunkMax newBytes.length then .refused .chunkTooLong
  else if !within b.rxbufCap (s.rxbuf.length + newBytes.length) then .refused .rxbufOverflow
  else completeIn b (giveBack (feed s newBytes).1 (.events (feed s newBytes).2))

/-- `FEED newBytes` (R100) in the spec's block, whose build has no limits. -/
def execFeed (newBytes : Bytes) (s : State) : Host.Outcome State Fault Refusal :=
  feedIn Config.build newBytes s

/-- The start delimiter arrives as one chunk: `FEED AA BB` (R61, R170; log entry 1). -/
def execStartDelim (s : State) : Host.Outcome State Fault Refusal :=
  feedIn Config.build (delimBytes startMark) s

/-- The end delimiter arrives as one chunk: `FEED CC DD` (R61, R170; log entry 1). -/
def execEndDelim (s : State) : Host.Outcome State Fault Refusal :=
  feedIn Config.build (delimBytes endMark) s

/-- A frame arrives as one chunk: `FEED` of its bytes (R60, R170; log entry 1). -/
def execFrame (payload : Bytes) (crcHi crcLo : Byte) (s : State) : Host.Outcome State Fault Refusal :=
  feedIn Config.build (wireFrame payload crcHi crcLo) s

end Sys2Proof.Machine
end

