-- ==== Sys2Proof/Machine/Reset.lean ====
section
/-! DEFINITION. The meaning of `RESET` (70_reset_and_hazards.md R180). -/

namespace Sys2Proof.Machine

/-- `RESET` (R180): the buffer is emptied and the five counters are 0; bytes that were waiting are lost without an
event. It returns no value; the model marks in the observation that it was performed. -/
def execReset (s : State) : Host.Outcome State Fault Refusal :=
  .next (giveBack (clearAll s) .resetDone)

end Sys2Proof.Machine
end

