-- ==== Sys2Proof/Machine/Dispatch.lean ====
section
/-! DEFINITION. What each instruction does: one arm per constructor of `Instr`. -/

namespace Sys2Proof.Machine

def exec (i : Instr) (s : State) : Host.Outcome State Fault Refusal :=
  match i with
  | .crc16 data => Sys2Proof.Machine.execCrc16 data s
  | .encode payload => Sys2Proof.Machine.execEncode payload s
  | .verify packet => Sys2Proof.Machine.execVerify packet s
  | .feed newBytes => Sys2Proof.Machine.execFeed newBytes s
  | .send payload wr => Sys2Proof.Machine.execSend payload wr s
  | .rdcnt sel => Sys2Proof.Machine.execRdcnt sel s
  | .reset => Sys2Proof.Machine.execReset s
  | .startDelim => Sys2Proof.Machine.execStartDelim s
  | .endDelim => Sys2Proof.Machine.execEndDelim s
  | .frame payload crcHi crcLo => Sys2Proof.Machine.execFrame payload crcHi crcLo s

end Sys2Proof.Machine
end

