-- ==== Sys2Proof/Machine/Fetch.lean ====
section
/-! DEFINITION. Taking the host's next request. -/

namespace Sys2Proof.Machine

/-- The request at the head of what the host has presented, taken off, and what it selects; `none` when nothing is
presented (00_scope.md R10; log entry 3). -/
def takeRequest (s : State) : Option (Except DecodeError Instr × State) :=
  match s.inbox with
  | [] => none
  | r :: rest => some (decode r, { s with inbox := rest })

/-- The host presents a request before all others. -/
def presentFirst (s : State) (r : Request) : State := { s with inbox := r :: s.inbox }

end Sys2Proof.Machine
end

