-- ==== Sys2Proof/Machine/Step.lean ====
section
/-! DEFINITION. One step: one operation of the host, taken, performed to completion and answered (00_scope.md R10). -/

namespace Sys2Proof.Machine

/-- When the host has presented nothing the block waits and keeps all its state (60_exceptions.md R179); otherwise the
first request is taken and the instruction it selects is performed. A line that names no operation is refused (log
entry 2). -/
def step (s : State) : Host.Outcome State Fault Refusal :=
  match takeRequest s with
  | none => .next s
  | some (.error why, _) => .refused (.notAnOperation why)
  | some (.ok i, t) => exec i t

/-- `s` with the wire pattern of `nbits` bits `w`, as spec/opcode_table.json numbers them, delivered as the next chunk:
the next step takes it and runs the instruction it decodes to (log entries 3 and 11). -/
def State.withFetchWord (s : State) (nbits w : Nat) : State :=
  presentFirst s (.chunk (tableChunk nbits w))

end Sys2Proof.Machine
end

