-- ==== Sys2Proof/Safety.lean ====
section
/-! DEFINITION. The terms in which claims about the block are stated: occurrences of the delimiters, `FEED` as the
relation its pseudocode describes, runs of operations, and the invariant of the state against what the host has
observed. -/

namespace Sys2Proof.Safety

open Sys2Proof.Machine

/-! ### Delimiters in a byte sequence -/

/-- The delimiter's two bytes stand at the indices `i` and `i + 1` (20_memory.md R44). -/
abbrev occursAt (s : Bytes) (d : Delimiter) (i : Nat) : Prop :=
  s[i]? = some d.first ∧ s[i + 1]? = some d.second

/-- START-free (44_laws.md, opening): `START` does not occur. -/
abbrev startFree (s : Bytes) : Prop := contains s startMark = false

/-- END-free (44_laws.md, opening): `END` does not occur. -/
abbrev endFree (s : Bytes) : Prop := contains s endMark = false

/-! ### `FEED` as a relation (42_reassembler.md R100) -/

/-- One extraction: its event, the number of bytes before the `START` that went with it (R108), and whether its
candidate packet was complete, not cut short (R113, 44_laws.md R149). -/
structure Extraction where
  event : FrameEvent
  junk : Nat
  complete : Bool
  deriving DecidableEq, Repr

/-- The state after steps 2d to 2f for a packet that ends before index `next` (R107 to R109). -/
def afterCut (s : State) (packet : Bytes) (next : Nat) : State :=
  { s with
    rxbuf := s.rxbuf.drop next
    totalReceivedBytes := s.totalReceivedBytes + packet.length
    totalPacketsReceived := s.totalPacketsReceived + 1 }

/-- `FeedRun s xs t`: the loop of R100, started in `s`, performs exactly the extractions `xs` in this order and ends in
`t`. It is the pseudocode written as a relation: it has no bound on the number of passes. -/
inductive FeedRun : State → List Extraction → State → Prop where
  /-- Step 2: the loop condition is false. -/
  | noDelimiters (s : State) (h : ¬(contains s.rxbuf startMark = true ∧ contains s.rxbuf endMark = true)) :
      FeedRun s [] s
  /-- Step 2c: no `END` at or after the first `START`'s end. -/
  | noEnd (s : State) (start : Nat) (hc : contains s.rxbuf startMark = true ∧ contains s.rxbuf endMark = true)
      (hs : find s.rxbuf startMark 0 = some start) (he : find s.rxbuf endMark (start + 2) = none) :
      FeedRun s [] s
  /-- Steps 2d to 2h, the packet passes `VERIFY`. -/
  | good (s t : State) (start stop : Nat) (packet : Bytes) (xs : List Extraction)
      (hc : contains s.rxbuf startMark = true ∧ contains s.rxbuf endMark = true)
      (hs : find s.rxbuf startMark 0 = some start) (he : find s.rxbuf endMark (start + 2) = some stop)
      (hp : packet = slice s.rxbuf start (stop + 4)) (hv : verifyPacket packet = true)
      (rest : FeedRun (afterCut s packet (stop + 4)) xs t) :
      FeedRun s ({ event := .payloadReceived (slice packet 2 (packet.length - 4)), junk := start,
                   complete := decide (stop + 4 ≤ s.rxbuf.length) } :: xs) t
  /-- Steps 2d to 2h, the packet fails `VERIFY`. -/
  | bad (s t : State) (start stop : Nat) (packet : Bytes) (xs : List Extraction)
      (hc : contains s.rxbuf startMark = true ∧ contains s.rxbuf endMark = true)
      (hs : find s.rxbuf startMark 0 = some start) (he : find s.rxbuf endMark (start + 2) = some stop)
      (hp : packet = slice s.rxbuf start (stop + 4)) (hv : verifyPacket packet = false)
      (rest : FeedRun
        { afterCut s packet (stop + 4) with lostPackets := s.lostPackets + 1, tsDraws := s.tsDraws + 1 } xs t) :
      FeedRun s ({ event := .corruptPacket packet (Config.timestampDraw s.tsDraws), junk := start,
                   complete := decide (stop + 4 ≤ s.rxbuf.length) } :: xs) t

/-- The events of a list of extractions, in their order (R111). -/
def eventsOf (xs : List Extraction) : List FrameEvent := xs.map Extraction.event

/-- The junk dropped with a list of extractions (R147 `dropped`). -/
def junkOf (xs : List Extraction) : Nat := (xs.map Extraction.junk).sum

/-! ### Runs of operations -/

/-- The operations performed one after another, each to completion (00_scope.md R10). -/
def execAll : List Instr → State → Host.Outcome State Fault Refusal
  | [], s => .next s
  | i :: is, s =>
    match exec i s with
    | .next t => execAll is t
    | .fault r => .fault r
    | .refused r => .refused r

/-! ### What the host has observed -/

/-- The events a returned value carries. -/
def responseEvents : Response → List FrameEvent
  | .events list => list
  | _ => []

/-- All events among returned values, in order. -/
def allEvents (rs : List Response) : List FrameEvent := (rs.map responseEvents).flatten

/-- The values returned since the last `RESET`. -/
def sinceReset (rs : List Response) : List Response :=
  rs.foldl (fun acc r => if r = .resetDone then [] else acc ++ [r]) []

/-- The event is a `CorruptPacket`. -/
def isCorrupt : FrameEvent → Bool
  | .payloadReceived _ => false
  | .corruptPacket _ _ => true

/-- The length of the candidate packet an event reports: the raw bytes, or the payload and the six bytes around it. -/
def packetLength : FrameEvent → Nat
  | .payloadReceived payload => payload.length + 6
  | .corruptPacket rawBytes _ => rawBytes.length

/-- The timestamp of an event, if it has one (30_encoding.md R70). -/
def stampOf : FrameEvent → Option Timestamp
  | .payloadReceived _ => none
  | .corruptPacket _ t => some t

/-- The bytes the transport reported written with a returned value (R130). -/
def bytesSent : Response → Nat
  | .sent _ (.written n) => n
  | _ => 0

/-- The frames the transport accepted with a returned value (R130). -/
def packetsSent : Response → Nat
  | .sent _ (.written _) => 1
  | _ => 0

/-- The invariant of the block: the buffer is quiescent between operations (10_state.md R29, 42_reassembler.md R103),
every counter is what the values returned since the last `RESET` say (43_counters.md R132, R134), and the timestamps
handed out are the draws, one for each `CorruptPacket`, in order (00_scope.md R11). -/
structure Inv (s : State) : Prop where
  buffer : quiescent s.rxbuf = true
  sentBytes : s.totalSentBytes = ((sinceReset s.outbox).map bytesSent).sum
  sentPackets : s.totalPacketsSent = ((sinceReset s.outbox).map packetsSent).sum
  receivedBytes : s.totalReceivedBytes = ((allEvents (sinceReset s.outbox)).map packetLength).sum
  receivedPackets : s.totalPacketsReceived = (allEvents (sinceReset s.outbox)).length
  lost : s.lostPackets = (allEvents (sinceReset s.outbox)).countP isCorrupt
  stamps : (allEvents s.outbox).filterMap stampOf = (List.range s.tsDraws).map Config.timestampDraw

end Sys2Proof.Safety
end

