-- ==== Sys2Proof/Certificates/Slice0/Obligations.lean ====
section
/-! DEFINITION. The statements for the provers, each a proposition about the model that formalises what a rule of spec/
says the block does. -/

open Sys2Proof Sys2Proof.Machine Sys2Proof.Safety

/-! ### The CRC-16 generator (40_crc16.md) -/

/-- R80: `crc_shift` tests bit 0 before a logical right shift by 1 and XORs `A001` in when that bit is 1; bit 15 of the
shifted word is 0 and bits 14 to 0 are bits 15 to 1; bit 15 of the result is bit 0 of the input; the rule's corner cases
and worked example. -/
def Obligations.CrcShiftStep : Prop :=
  (∀ r : Word16, crcShift r = if r.getLsbD 0 = true then (r >>> 1) ^^^ 0xA001#16 else r >>> 1) ∧
  (∀ r : Word16, (r >>> 1).getLsbD 15 = false ∧ ∀ k, k < 15 → (r >>> 1).getLsbD k = r.getLsbD (k + 1)) ∧
  (∀ r : Word16, (crcShift r).getLsbD 15 = r.getLsbD 0) ∧
  crcShift 0x0000 = 0x0000 ∧ crcShift 0x0001 = 0xA001 ∧ crcShift 0xFFFF = 0xDFFE ∧
  crcShift 0xFFBE = 0x7FDF ∧ crcShift 0x7FDF = 0x9FEE

/-- R81: `crc_update` XORs the byte into bits 7 to 0, bits 15 to 8 unchanged, and applies `crc_shift` exactly eight
times; the rule's corner cases and worked example. -/
def Obligations.CrcUpdateIsEightShifts : Prop :=
  (∀ (r : Word16) (b : Byte), crcUpdate r b = crcShift^[8] (r ^^^ b.setWidth 16)) ∧
  (∀ (r : Word16) (b : Byte), (r ^^^ b.setWidth 16).extractLsb' 8 8 = r.extractLsb' 8 8 ∧
    (r ^^^ b.setWidth 16).extractLsb' 0 8 = r.extractLsb' 0 8 ^^^ b) ∧
  crcUpdate 0x0000 0x00 = 0x0000 ∧ crcUpdate 0xFFFF 0xFF = 0x00FF ∧ crcUpdate 0xFFFF 0x00 = 0x40BF ∧
  crcUpdate 0xFFFF 0x41 = 0x707F ∧
  (List.range 9).map (fun n => crcShift^[n] 0xFFBE) =
    [0xFFBE, 0x7FDF, 0x9FEE, 0x4FF7, 0x87FA, 0x43FD, 0x81FF, 0xE0FE, 0x707F]

/-- R82: `CRC16 data` returns the register after all bytes, first byte first, started from `FFFF`, with no final
transform; it reads and writes no state of the block, so the same value is returned from every state. -/
def Obligations.Crc16ReturnsRegister : Prop :=
  (∀ (data : Bytes) (s : State),
    exec (.crc16 data) s = .next { s with outbox := s.outbox ++ [.crc (data.foldl crcUpdate 0xFFFF)] }) ∧
  (∀ s : State, exec (.crc16 []) s = .next { s with outbox := s.outbox ++ [.crc 0xFFFF] }) ∧
  (∀ s : State, exec (.crc16 [0x00]) s = .next { s with outbox := s.outbox ++ [.crc 0x40BF] }) ∧
  (∀ s : State, exec (.crc16 [0xAA, 0xBB, 0x41, 0x42, 0xCC, 0xDD]) s =
    .next { s with outbox := s.outbox ++ [.crc 0x7BDD] }) ∧
  [crc16 [0xAA], crc16 [0xAA, 0xBB], crc16 [0xAA, 0xBB, 0x41], crc16 [0xAA, 0xBB, 0x41, 0x42],
    crc16 [0xAA, 0xBB, 0x41, 0x42, 0xCC]] = [0x3F3F, 0x633F, 0x20E3, 0xB8E1, 0x1D78]

/-- 40_crc16.md section 3 (its rule on folding is marked derived there): the CRC of a concatenation is the loop of R82
continued from the CRC of the first part. -/
def Obligations.CrcFoldsOverAppend : Prop :=
  ∀ (r : Word16) (a b : Bytes), crcFold r [] = r ∧ crcFold r (a ++ b) = crcFold (crcFold r a) b ∧
    crc16 (a ++ b) = crcFold (crc16 a) b

/-- 40_crc16.md section 4 (marked derived there): the byte-at-a-time table form equals the bit-serial form for every
register and byte, with the table entries the spec prints. -/
def Obligations.CrcTableFormAgrees : Prop :=
  (∀ (r : Word16) (b : Byte),
    crcUpdate r b = (r >>> 8) ^^^ crcUpdate 0 ((r ^^^ b.setWidth 16).extractLsb' 0 8)) ∧
  crcUpdate 0 0 = 0x0000 ∧ crcUpdate 0 1 = 0xC0C1 ∧ crcUpdate 0 2 = 0xC181 ∧ crcUpdate 0 255 = 0x4040

/-- 40_crc16.md section 5 (marked derived there): `crc_shift` is a bijection with the inverse the spec gives; a byte
step is a bijection of the register and injective in the byte; the loop over fixed data is a bijection of the register. -/
def Obligations.CrcStepsInvertible : Prop :=
  (∀ r : Word16, r = ((crcShift r ^^^ (if (crcShift r).getLsbD 15 = true then 0xA001#16 else 0)) <<< 1) |||
    (if (crcShift r).getLsbD 15 = true then 1#16 else 0)) ∧
  Function.Bijective crcShift ∧ (∀ b : Byte, Function.Bijective fun r => crcUpdate r b) ∧
  (∀ r : Word16, Function.Injective (crcUpdate r)) ∧ (∀ data : Bytes, Function.Bijective fun r => crcFold r data)

/-- 40_crc16.md section 5 (marked derived there): two byte sequences of the same length that differ in exactly one byte
position have different CRCs. -/
def Obligations.CrcTellsOneByteApart : Prop :=
  ∀ (a c : Bytes) (x y : Byte), x ≠ y → crc16 (a ++ x :: c) ≠ crc16 (a ++ y :: c)

/-! ### The framer and the checker (41_framecodec.md, 30_encoding.md) -/

/-- R90: `ENCODE payload` returns `START ++ payload ++ END` and the two bytes of its CRC, high byte first, from every
state, and changes nothing; it succeeds for every payload. The empty payload gives `AA BB CC DD 80 C4`. -/
def Obligations.EncodeReturnsFrame : Prop :=
  (∀ (payload : Bytes) (s : State),
    exec (.encode payload) s = .next { s with outbox := s.outbox ++ [.frame (
      [0xAA, 0xBB] ++ payload ++ [0xCC, 0xDD] ++
      [(crc16 ([0xAA, 0xBB] ++ payload ++ [0xCC, 0xDD])).extractLsb' 8 8,
       (crc16 ([0xAA, 0xBB] ++ payload ++ [0xCC, 0xDD])).extractLsb' 0 8])] }) ∧
  (∀ s : State, exec (.encode []) s =
    .next { s with outbox := s.outbox ++ [.frame [0xAA, 0xBB, 0xCC, 0xDD, 0x80, 0xC4]] }) ∧
  (∀ s : State, exec (.encode [0x41, 0x42]) s =
    .next { s with outbox := s.outbox ++ [.frame [0xAA, 0xBB, 0x41, 0x42, 0xCC, 0xDD, 0x7B, 0xDD]] })

/-- 41_framecodec.md section 1, facts about the result of `ENCODE` (marked derived there): length, every byte, where
the delimiters are found, and injectivity. -/
def Obligations.EncodedFrameFacts : Prop :=
  (∀ p : Bytes,
    (encodeFrame p).length = p.length + 6 ∧
    (encodeFrame p)[0]? = some 0xAA ∧ (encodeFrame p)[1]? = some 0xBB ∧
    (∀ i : Nat, i < p.length → (encodeFrame p)[2 + i]? = p[i]?) ∧
    (encodeFrame p)[p.length + 2]? = some 0xCC ∧ (encodeFrame p)[p.length + 3]? = some 0xDD ∧
    receivedCrc (encodeFrame p) = crc16 ((encodeFrame p).take (p.length + 4)) ∧
    find (encodeFrame p) startMark 0 = some 0 ∧
    (find (encodeFrame p) endMark 2 = some (p.length + 2) ↔ ∀ i : Nat, ¬(p[i]? = some 0xCC ∧ p[i + 1]? = some 0xDD))) ∧
  Function.Injective encodeFrame

/-- R62: the CRC field is `c[15:8]` then `c[7:0]`; read back from the trailing two bytes of a packet it is the word whose
high byte comes first; reading inverts writing. -/
def Obligations.CrcFieldIsBigEndian : Prop :=
  (∀ c : Word16, crcField c = [c.extractLsb' 8 8, c.extractLsb' 0 8]) ∧
  (∀ (d : Bytes) (h l : Byte), receivedCrc (d ++ [h, l]) = (h.setWidth 16 <<< 8) ||| l.setWidth 16) ∧
  (∀ (d : Bytes) (c : Word16), receivedCrc (d ++ crcField c) = c)

/-- R63: the payload strip counts bytes: `p[2 : len(p) - 4]`, of length `len(p) - 6` when there are six bytes or more,
and empty under the clamped slice when there are fewer. -/
def Obligations.PayloadStripCountsBytes : Prop :=
  (∀ (a b x y h l : Byte) (p : Bytes), stripPayload ([a, b] ++ p ++ [x, y, h, l]) = p) ∧
  (∀ p : Bytes, 6 ≤ p.length → (stripPayload p).length = p.length - 6 ∧
    ∀ i, i < p.length - 6 → (stripPayload p)[i]? = p[2 + i]?) ∧
  (∀ p : Bytes, p.length < 6 → stripPayload p = [])

/-- R91: `VERIFY packet` returns false when fewer than 2 bytes are present, and otherwise whether the trailing two
bytes, big-endian, equal the CRC of all bytes before them; it changes nothing, from every state. -/
def Obligations.VerifyComparesTrailingCrc : Prop :=
  (∀ (packet : Bytes) (s : State), packet.length < 2 →
    exec (.verify packet) s = .next { s with outbox := s.outbox ++ [.verdict false] }) ∧
  (∀ (d : Bytes) (h l : Byte) (s : State),
    exec (.verify (d ++ [h, l])) s = .next { s with outbox := s.outbox ++
      [.verdict (decide ((h.setWidth 16 <<< 8) ||| l.setWidth 16 = crc16 d))] }) ∧
  (∀ s : State, exec (.verify [0xFF, 0xFF]) s = .next { s with outbox := s.outbox ++ [.verdict true] }) ∧
  (∀ s : State, exec (.verify [0x00, 0x40, 0xBF]) s = .next { s with outbox := s.outbox ++ [.verdict true] }) ∧
  (∀ s : State, exec (.verify [0x00, 0xBF, 0x40]) s = .next { s with outbox := s.outbox ++ [.verdict false] }) ∧
  (∀ s : State, exec (.verify [0xAA, 0xBB, 0x41, 0x42, 0xCC, 0xDD, 0x7B, 0xDD]) s =
    .next { s with outbox := s.outbox ++ [.verdict true] }) ∧
  (∀ s : State, exec (.verify [0xAA, 0xBB, 0x40, 0x42, 0xCC, 0xDD, 0x7B, 0xDD]) s =
    .next { s with outbox := s.outbox ++ [.verdict false] })

/-- 44_laws.md section 1, CRC round-trip (marked derived there): `VERIFY` returns true for every byte sequence followed
by its CRC, and so for every frame that `ENCODE` returns. -/
def Obligations.VerifyAcceptsItsOwnCrc : Prop :=
  (∀ (d : Bytes) (s : State), exec (.verify (d ++ crcField (crc16 d))) s =
    .next { s with outbox := s.outbox ++ [.verdict true] }) ∧
  (∀ (p : Bytes) (s : State), exec (.verify (encodeFrame p)) s =
    .next { s with outbox := s.outbox ++ [.verdict true] })

/-- 44_laws.md section 1, corruption detection (marked derived there): a packet that passes `VERIFY` fails it after a
change confined to one byte at the same length. -/
def Obligations.VerifyRejectsOneByteChange : Prop :=
  ∀ (a c : Bytes) (x y : Byte) (s : State), x ≠ y → verifyPacket (a ++ x :: c) = true →
    exec (.verify (a ++ y :: c)) s = .next { s with outbox := s.outbox ++ [.verdict false] }

/-! ### The receive buffer (20_memory.md) -/

/-- R44, R45: `find` returns the least index from `start` on at which both bytes of the pattern stand, and no index
when there is none; `contains` is whether there is one at all. -/
def Obligations.FindIsFirstOccurrence : Prop :=
  (∀ (s : Bytes) (d : Delimiter) (start i : Nat),
    find s d start = some i ↔
      start ≤ i ∧ i + 1 < s.length ∧ s[i]? = some d.first ∧ s[i + 1]? = some d.second ∧
      ∀ j, start ≤ j → j < i → ¬(s[j]? = some d.first ∧ s[j + 1]? = some d.second)) ∧
  (∀ (s : Bytes) (d : Delimiter) (start : Nat),
    find s d start = none ↔ ∀ j, start ≤ j → ¬(s[j]? = some d.first ∧ s[j + 1]? = some d.second)) ∧
  (∀ (s : Bytes) (d : Delimiter),
    contains s d = true ↔ ∃ j, s[j]? = some d.first ∧ s[j + 1]? = some d.second)

/-- R41, R42, R43: what the three buffer primitives do to every index, the clamping at the end, and that nothing but
the buffer changes. -/
def Obligations.BufferPrimitives : Prop :=
  (∀ (s : State) (v : Bytes), bufAppend s v = { s with rxbuf := (bufAppend s v).rxbuf } ∧
    (bufAppend s v).rxbuf.length = s.rxbuf.length + v.length ∧
    ∀ i, (bufAppend s v).rxbuf[i]? = if i < s.rxbuf.length then s.rxbuf[i]? else v[i - s.rxbuf.length]?) ∧
  (∀ (s : State) (addr n : Nat), (memRead s addr n).length = min (addr + n) s.rxbuf.length - addr ∧
    ∀ i, (memRead s addr n)[i]? = if i < n then s.rxbuf[addr + i]? else none) ∧
  (∀ (s : State) (k : Nat), bufDropFront s k = { s with rxbuf := (bufDropFront s k).rxbuf } ∧
    (∀ i, (bufDropFront s k).rxbuf[i]? = s.rxbuf[k + i]?) ∧
    (s.rxbuf.length ≤ k → (bufDropFront s k).rxbuf = []))

/-- 20_memory.md section 2, its rule on overlaps (marked derived there): next to a `START` at `i` no `END` and no other
`START` begins at `i - 1` or `i + 1`, so every `END` lies wholly before it or from `i + 2` on; and next to an `END` no
other `END` begins. -/
def Obligations.DelimitersNeverOverlap : Prop :=
  ∀ (t : Bytes) (i j : Nat),
    (occursAt t startMark i → occursAt t endMark j → j + 2 ≤ i ∨ i + 2 ≤ j) ∧
    (occursAt t startMark i → occursAt t startMark j → j = i ∨ j + 2 ≤ i ∨ i + 2 ≤ j) ∧
    (occursAt t endMark i → occursAt t endMark j → j = i ∨ j + 2 ≤ i ∨ i + 2 ≤ j)

/-! ### `FEED` (42_reassembler.md) -/

/-- R100: from every state and for every chunk, `FEED` completes, and what it leaves and returns is what the pseudocode
leaves and returns: append once, then the loop, as the relation `FeedRun` transcribes it; that relation has one result,
and it never touches the sent counters. The rule's worked example from reset, whose empty buffer and zero counters are the
spec's own decision D3 (log entry 7). -/
def Obligations.FeedPerformsThePseudocode : Prop :=
  (∀ (newBytes : Bytes) (s : State), ∃ (xs : List Extraction) (u : State),
    FeedRun { s with rxbuf := s.rxbuf ++ newBytes } xs u ∧
    exec (.feed newBytes) s = .next { u with outbox := u.outbox ++ [.events (eventsOf xs)] } ∧
    u.totalSentBytes = s.totalSentBytes ∧ u.totalPacketsSent = s.totalPacketsSent ∧
    u.inbox = s.inbox ∧ u.outbox = s.outbox ∧
    ∀ ys v, FeedRun { s with rxbuf := s.rxbuf ++ newBytes } ys v → ys = xs ∧ v = u) ∧
  exec (.feed [0xAA, 0xBB, 0x41, 0x42, 0xCC, 0xDD, 0x7B, 0xDD]) State.reset = .next { State.reset with
    totalReceivedBytes := 8
    totalPacketsReceived := 1
    outbox := [.events [.payloadReceived [0x41, 0x42]]] }

/-- The frame of `FEED` and of the three wire patterns (R100: `totalSentBytes` and `totalPacketsSent` are neither read
nor written): the sent counters, what the host has presented and every earlier returned value are unchanged, and one
event list is returned. -/
def Obligations.FeedLeavesTheSendSideAlone : Prop :=
  ∀ (i : Instr) (s t : State),
    (i = .startDelim ∨ i = .endDelim ∨ (∃ c, i = .feed c) ∨ ∃ p h l, i = .frame p h l) → exec i s = .next t →
    t.totalSentBytes = s.totalSentBytes ∧ t.totalPacketsSent = s.totalPacketsSent ∧ t.inbox = s.inbox ∧
    ∃ es, t.outbox = s.outbox ++ [.events es]

/-- R102, R106, R115: while the appended buffer holds no `START` with an `END` after it, `FEED` keeps every byte, junk
included, returns the empty list and changes no counter. -/
def Obligations.FeedWaitsForAnEnd : Prop :=
  ∀ (newBytes : Bytes) (s : State),
    (find (s.rxbuf ++ newBytes) startMark 0 = none ∨
      ∃ i, find (s.rxbuf ++ newBytes) startMark 0 = some i ∧
        find (s.rxbuf ++ newBytes) endMark (i + 2) = none) →
    exec (.feed newBytes) s =
      .next { s with rxbuf := s.rxbuf ++ newBytes, outbox := s.outbox ++ [.events []] }

/-- R107 to R110: when the appended buffer's first `START` is at `i` and the first `END` from `i + 2` on is at `j`, `FEED`
cuts `[i : j + 4]` clamped, drops everything before `j + 4`, adds the packet's length and 1 to the counters before the
check and whatever its outcome, emits the payload or counts a loss and emits the packet whole with one timestamp draw,
and goes on with what is left: its event comes first, before those that a `FEED` of nothing gives from there. -/
def Obligations.FeedExtractsTheFirstPacket : Prop :=
  ∀ (newBytes : Bytes) (s : State) (i j : Nat) (packet : Bytes),
    find (s.rxbuf ++ newBytes) startMark 0 = some i →
    find (s.rxbuf ++ newBytes) endMark (i + 2) = some j →
    packet = slice (s.rxbuf ++ newBytes) i (j + 4) →
    (verifyPacket packet = true → ∃ (es : List FrameEvent) (t : State),
      exec (.feed []) { s with
        rxbuf := (s.rxbuf ++ newBytes).drop (j + 4)
        totalReceivedBytes := s.totalReceivedBytes + packet.length
        totalPacketsReceived := s.totalPacketsReceived + 1 } = .next t ∧
      t.outbox = s.outbox ++ [.events es] ∧
      exec (.feed newBytes) s = .next { t with outbox := s.outbox ++
        [.events (.payloadReceived (slice packet 2 (packet.length - 4)) :: es)] }) ∧
    (verifyPacket packet = false → ∃ (es : List FrameEvent) (t : State),
      exec (.feed []) { s with
        rxbuf := (s.rxbuf ++ newBytes).drop (j + 4)
        totalReceivedBytes := s.totalReceivedBytes + packet.length
        totalPacketsReceived := s.totalPacketsReceived + 1
        lostPackets := s.lostPackets + 1
        tsDraws := s.tsDraws + 1 } = .next t ∧
      t.outbox = s.outbox ++ [.events es] ∧
      exec (.feed newBytes) s = .next { t with outbox := s.outbox ++
        [.events (.corruptPacket packet (Config.timestampDraw s.tsDraws) :: es)] })

/-- 42_reassembler.md section 3 and 44_laws.md section 2 (marked derived there): after every `FEED`, from any state,
the buffer is quiescent, and it is a suffix of what was there with the chunk appended: nothing is ever put in front. What
is gone from the front is exactly the junk and the packets of the extractions performed, so no processed byte stays. -/
def Obligations.FeedLeavesAQuiescentBuffer : Prop :=
  ∀ (newBytes : Bytes) (s t : State), exec (.feed newBytes) s = .next t →
    quiescent t.rxbuf = true ∧ t.rxbuf <:+ s.rxbuf ++ newBytes ∧
    ∀ (xs : List Extraction) (u : State), FeedRun { s with rxbuf := s.rxbuf ++ newBytes } xs u →
      t.rxbuf = (s.rxbuf ++ newBytes).drop (junkOf xs + ((eventsOf xs).map packetLength).sum)

/-- 42_reassembler.md section 3, shape of a candidate packet (marked derived there): its length by how many bytes follow
the `END`, the buffer emptied when fewer than two do, at least 4 bytes, `AA BB` in front, and its first `END` from
offset 2 on at `j - i`. -/
def Obligations.CandidatePacketShape : Prop :=
  ∀ (b : Bytes) (i j : Nat), find b startMark 0 = some i → find b endMark (i + 2) = some j →
    i + 2 ≤ j ∧ j + 2 ≤ b.length ∧
    (j + 4 ≤ b.length → (slice b i (j + 4)).length = j - i + 4) ∧
    (j + 3 = b.length → (slice b i (j + 4)).length = j - i + 3 ∧ b.drop (j + 4) = []) ∧
    (j + 2 = b.length → (slice b i (j + 4)).length = j - i + 2 ∧ b.drop (j + 4) = []) ∧
    4 ≤ (slice b i (j + 4)).length ∧
    (slice b i (j + 4))[0]? = some 0xAA ∧ (slice b i (j + 4))[1]? = some 0xBB ∧
    find (slice b i (j + 4)) endMark 2 = some (j - i)

/-- 42_reassembler.md section 3, packets cut short (marked derived there): every candidate packet that passes `VERIFY`
has at least 6 bytes, so the payload strip never runs out of bytes; and from 6 bytes on a cut-short packet can pass. -/
def Obligations.VerifiedCandidateHasSixBytes : Prop :=
  (∀ (b : Bytes) (i j : Nat), find b startMark 0 = some i → find b endMark (i + 2) = some j →
    verifyPacket (slice b i (j + 4)) = true → 6 ≤ (slice b i (j + 4)).length) ∧
  (∀ s : State, s.rxbuf = [] → exec (.feed [0xAA, 0xBB, 0x10, 0x32, 0xCC, 0xDD]) s =
    .next { s with
      totalReceivedBytes := s.totalReceivedBytes + 6
      totalPacketsReceived := s.totalPacketsReceived + 1
      outbox := s.outbox ++ [.events [.payloadReceived []]] })

/-- 42_reassembler.md section 3, termination (marked derived there): one `FEED` performs at most a quarter as many
extractions as the appended buffer has bytes, one event each. -/
def Obligations.FeedExtractionsAreBounded : Prop :=
  ∀ (newBytes : Bytes) (s t : State), exec (.feed newBytes) s = .next t →
    ∃ es, t.outbox = s.outbox ++ [.events es] ∧ 4 * es.length ≤ s.rxbuf.length + newBytes.length

/-- 42_reassembler.md section 3, empty chunk (rests on the spec's own decision D8): a `FEED` of nothing returns the empty
list and changes nothing, when the buffer is quiescent, which the invariant `Inv` says it always is. -/
def Obligations.FeedOfNothingChangesNothing : Prop :=
  ∀ s : State, quiescent s.rxbuf = true →
    exec (.feed []) s = .next { s with outbox := s.outbox ++ [.events []] }

/-- 44_laws.md section 2, garbage prefix (marked derived there, with the condition the algorithm needs: log entry 13):
when the buffer with the junk appended is START-free and the payload END-free, feeding the junk and the frame delivers
exactly the payload, empties the buffer and counts the frame alone. -/
def Obligations.GarbagePrefixIsDropped : Prop :=
  ∀ (junk p : Bytes) (s : State), startFree (s.rxbuf ++ junk) → endFree p →
    exec (.feed (junk ++ encodeFrame p)) s = .next { s with
      rxbuf := []
      totalReceivedBytes := s.totalReceivedBytes + (p.length + 6)
      totalPacketsReceived := s.totalPacketsReceived + 1
      outbox := s.outbox ++ [.events [.payloadReceived p]] }

/-- The law as 44_laws.md prints it (buffer START-free, junk START-free, each by itself) is not what the algorithm of
R100 does: `AA` waiting in the buffer and junk `BB` make a `START` at their junction (log entry 13). -/
def Obligations.GarbagePrefixNeedsTheJunction : Prop :=
  ∃ (junk p : Bytes) (s t : State), startFree s.rxbuf ∧ startFree junk ∧ endFree p ∧
    exec (.feed (junk ++ encodeFrame p)) s = .next t ∧ t.lostPackets = s.lostPackets + 1

/-- 44_laws.md section 2, several packets in one burst (marked derived there): END-free payloads, framed one after
another in one chunk fed to a START-free buffer, are all delivered in order, and the counters grow by their frames. -/
def Obligations.BurstIsDeliveredInOrder : Prop :=
  ∀ (ps : List Bytes) (s : State), ps ≠ [] → startFree s.rxbuf → (∀ p ∈ ps, endFree p) →
    exec (.feed (ps.map encodeFrame).flatten) s = .next { s with
      rxbuf := []
      totalReceivedBytes := s.totalReceivedBytes + (ps.map fun p => p.length + 6).sum
      totalPacketsReceived := s.totalPacketsReceived + ps.length
      outbox := s.outbox ++ [.events (ps.map FrameEvent.payloadReceived)] }

/-- 44_laws.md section 2, reassembly across fragmentation, case (a) (marked derived there): a frame of an END-free
payload, cut into chunks in any way in which no chunk ends after the `END` and before the end of the CRC, is delivered
once and whole, from every state whose buffer is START-free. -/
def Obligations.FragmentedFrameIsDelivered : Prop :=
  ∀ (p : Bytes) (chunks : List Bytes) (s : State),
    endFree p → startFree s.rxbuf → chunks.flatten = encodeFrame p →
    (∀ k, (chunks.take k).flatten.length ≠ p.length + 4 ∧ (chunks.take k).flatten.length ≠ p.length + 5) →
    ∃ rs : List Response, allEvents rs = [.payloadReceived p] ∧ rs.length = chunks.length ∧
      execAll (chunks.map Instr.feed) s = .next { s with
        rxbuf := []
        totalReceivedBytes := s.totalReceivedBytes + (p.length + 6)
        totalPacketsReceived := s.totalPacketsReceived + 1
        outbox := s.outbox ++ rs }

/-- 44_laws.md section 2, reassembly across fragmentation, case (b), and the hazard of 70_reset_and_hazards.md section 3
(marked derived there): when the chunk that completes the `END` brings fewer than both CRC bytes, the candidate packet is
the frame cut there; it is counted with its actual length, the buffer is emptied, and one event is returned: a
`CorruptPacket` of exactly those bytes, or by coincidence of the CRC a `PayloadReceived` of a payload that was not sent. The
coincidence needs both CRC bytes missing: a frame with one of them never passes. The CRC bytes that remain, fed later in
one chunk or in more, give no event, change no counter and stay in the buffer as junk. -/
def Obligations.CutShortFrameIsNotDelivered : Prop :=
  ∀ (p junk got chunk : Bytes) (k : Nat) (s : State),
    endFree p → startFree junk → k = p.length + 4 ∨ k = p.length + 5 →
    s.rxbuf = junk ++ got → got ++ chunk = (encodeFrame p).take k → got.length < p.length + 4 →
    (k = p.length + 5 → verifyPacket ((encodeFrame p).take k) = false) ∧
    (verifyPacket ((encodeFrame p).take k) = false →
      exec (.feed chunk) s = .next { s with
        rxbuf := []
        totalReceivedBytes := s.totalReceivedBytes + k
        totalPacketsReceived := s.totalPacketsReceived + 1
        lostPackets := s.lostPackets + 1
        tsDraws := s.tsDraws + 1
        outbox := s.outbox ++
          [.events [.corruptPacket ((encodeFrame p).take k) (Config.timestampDraw s.tsDraws)]] }) ∧
    (verifyPacket ((encodeFrame p).take k) = true →
      ∃ q : Bytes, q ≠ p ∧ exec (.feed chunk) s = .next { s with
        rxbuf := []
        totalReceivedBytes := s.totalReceivedBytes + k
        totalPacketsReceived := s.totalPacketsReceived + 1
        outbox := s.outbox ++ [.events [.payloadReceived q]] }) ∧
    ∀ (t : State) (later : List Bytes), exec (.feed chunk) s = .next t → later.flatten = (encodeFrame p).drop k →
      execAll (later.map Instr.feed) t = .next { t with
        rxbuf := (encodeFrame p).drop k
        outbox := t.outbox ++ List.replicate later.length (.events []) }

/-- 44_laws.md section 2, conservation of bytes, for one `FEED` (marked derived there): every byte that was waiting or
is fed is in an extracted packet, in dropped junk, or still in the buffer. -/
def Obligations.FeedConservesBytes : Prop :=
  ∀ (newBytes : Bytes) (s t : State) (xs : List Extraction) (u : State),
    FeedRun { s with rxbuf := s.rxbuf ++ newBytes } xs u → exec (.feed newBytes) s = .next t →
    s.totalReceivedBytes + s.rxbuf.length + newBytes.length =
      t.totalReceivedBytes + junkOf xs + t.rxbuf.length

/-- 44_laws.md section 2, when chunking does not matter (marked derived there): if every extraction of `FEED a` is
complete, then `FEED a` followed by `FEED b` and the single `FEED (a ++ b)` leave the same state and return the same
events in the same order. Both runs take the same timestamp draws, because the n-th draw is `Config.timestampDraw n`: the
model's choice, log entry 5. -/
def Obligations.ChunkingIrrelevantWhenComplete : Prop :=
  ∀ (a b : Bytes) (s : State) (xs : List Extraction) (u : State),
    FeedRun { s with rxbuf := s.rxbuf ++ a } xs u → (∀ x ∈ xs, x.complete = true) →
    ∃ (ea eb : List FrameEvent) (t1 t2 : State),
      exec (.feed a) s = .next t1 ∧ exec (.feed b) t1 = .next t2 ∧
      t1.outbox = s.outbox ++ [.events ea] ∧ t2.outbox = s.outbox ++ [.events ea, .events eb] ∧
      exec (.feed (a ++ b)) s = .next { t2 with outbox := s.outbox ++ [.events (ea ++ eb)] }

/-- 42_reassembler.md section 3 (c) and the hazard of a stale `START` (marked derived there): a `START` that waits without
an `END` captures the next frame: the one candidate packet runs from the stale `START` to the end of the good frame. -/
def Obligations.StaleStartSwallowsTheFrame : Prop :=
  ∀ (p : Bytes) (s : State) (i : Nat), endFree p → find s.rxbuf startMark 0 = some i →
    find s.rxbuf endMark (i + 2) = none →
    (verifyPacket (s.rxbuf.drop i ++ encodeFrame p) = false →
      exec (.feed (encodeFrame p)) s = .next { s with
        rxbuf := []
        totalReceivedBytes := s.totalReceivedBytes + (s.rxbuf.length - i + (p.length + 6))
        totalPacketsReceived := s.totalPacketsReceived + 1
        lostPackets := s.lostPackets + 1
        tsDraws := s.tsDraws + 1
        outbox := s.outbox ++ [.events
          [.corruptPacket (s.rxbuf.drop i ++ encodeFrame p) (Config.timestampDraw s.tsDraws)]] }) ∧
    (verifyPacket (s.rxbuf.drop i ++ encodeFrame p) = true →
      exec (.feed (encodeFrame p)) s = .next { s with
        rxbuf := []
        totalReceivedBytes := s.totalReceivedBytes + (s.rxbuf.length - i + (p.length + 6))
        totalPacketsReceived := s.totalPacketsReceived + 1
        outbox := s.outbox ++ [.events
          [.payloadReceived (stripPayload (s.rxbuf.drop i ++ encodeFrame p))]] })

/-- 42_reassembler.md section 3 (a) and the hazard of a delimiter collision (marked derived there): for a payload that
holds an `END`, the first candidate packet ends two bytes after that inner `END`; the payload is never the first event. -/
def Obligations.EndInsideThePayloadCutsTheFrame : Prop :=
  ∀ (a b : Bytes) (s t : State), endFree a → startFree s.rxbuf →
    exec (.feed (encodeFrame (a ++ [0xCC, 0xDD] ++ b))) s = .next t →
    ∃ (e : FrameEvent) (es : List FrameEvent), t.outbox = s.outbox ++ [.events (e :: es)] ∧
      packetLength e = a.length + 6 ∧ e ≠ .payloadReceived (a ++ [0xCC, 0xDD] ++ b) ∧
      ∀ raw ts, e = .corruptPacket raw ts →
        raw = [0xAA, 0xBB] ++ a ++ [0xCC, 0xDD] ++ (b ++ [0xCC, 0xDD]).take 2

/-- 42_reassembler.md section 1 (the pseudocode of R100) and 30_encoding.md section 5 (R68: the state that `FEED` reads is
`RXBUF`): what `FEED` returns, leaves in the buffer and adds to the counters depends on the buffer, the chunk and the draws
alone, not on any counter and not on what was returned before. That the draws to come are told by the count of draws is
the model's choice: log entry 5. -/
def Obligations.FeedDependsOnlyOnTheBuffer : Prop :=
  ∀ (c : Bytes) (s s' t t' : State), s.rxbuf = s'.rxbuf → s.tsDraws = s'.tsDraws →
    exec (.feed c) s = .next t → exec (.feed c) s' = .next t' →
    t.rxbuf = t'.rxbuf ∧ t.tsDraws = t'.tsDraws ∧
    (∃ es, t.outbox = s.outbox ++ [.events es] ∧ t'.outbox = s'.outbox ++ [.events es]) ∧
    t.totalReceivedBytes + s'.totalReceivedBytes = t'.totalReceivedBytes + s.totalReceivedBytes ∧
    t.totalPacketsReceived + s'.totalPacketsReceived = t'.totalPacketsReceived + s.totalPacketsReceived ∧
    t.lostPackets + s'.lostPackets = t'.lostPackets + s.lostPackets

/-! ### The wire patterns (30_encoding.md R60, R61; the model's choice: log entry 1) -/

/-- The model's reading of the three wire-pattern rows (log entry 1): the delivery of exactly that pattern as one chunk,
so its effect is the `FEED` of those bytes. -/
def Obligations.WirePatternsArriveAsChunks : Prop :=
  (∀ s : State, exec .startDelim s = exec (.feed [0xAA, 0xBB]) s) ∧
  (∀ s : State, exec .endDelim s = exec (.feed [0xCC, 0xDD]) s) ∧
  (∀ (p : Bytes) (h l : Byte) (s : State),
    exec (.frame p h l) s = exec (.feed ([0xAA, 0xBB] ++ p ++ [0xCC, 0xDD, h, l])) s)

/-- A `START` that arrives as a chunk at a quiescent buffer is kept and waits for its `END` (the chunk reading is the
model's: log entry 1; the effect is R101 and R106's). -/
def Obligations.StartArrivalIsKept : Prop :=
  ∀ s : State, quiescent s.rxbuf = true →
    exec .startDelim s = .next { s with
      rxbuf := s.rxbuf ++ [0xAA, 0xBB], outbox := s.outbox ++ [.events []] }

/-- An `END` that arrives as a chunk (the chunk reading is the model's: log entry 1): at a START-free buffer it is junk
like any other byte and is kept; behind a waiting `START` it completes a candidate packet that ends with the `END` itself,
empties the buffer and gives one event. -/
def Obligations.EndArrivalCompletesOrWaits : Prop :=
  (∀ s : State, startFree s.rxbuf →
    exec .endDelim s = .next { s with
      rxbuf := s.rxbuf ++ [0xCC, 0xDD], outbox := s.outbox ++ [.events []] }) ∧
  (∀ (s : State) (i : Nat), find s.rxbuf startMark 0 = some i → find s.rxbuf endMark (i + 2) = none →
    ∃ (t : State) (e : FrameEvent), exec .endDelim s = .next t ∧ t.rxbuf = [] ∧
      t.outbox = s.outbox ++ [.events [e]] ∧
      t.totalReceivedBytes = s.totalReceivedBytes + (s.rxbuf.length - i + 2) ∧
      t.totalPacketsReceived = s.totalPacketsReceived + 1 ∧
      (verifyPacket (s.rxbuf.drop i ++ [0xCC, 0xDD]) = false → t.lostPackets = s.lostPackets + 1 ∧
        e = .corruptPacket (s.rxbuf.drop i ++ [0xCC, 0xDD]) (Config.timestampDraw s.tsDraws)) ∧
      (verifyPacket (s.rxbuf.drop i ++ [0xCC, 0xDD]) = true → t.lostPackets = s.lostPackets ∧
        e = .payloadReceived (stripPayload (s.rxbuf.drop i ++ [0xCC, 0xDD]))))

/-- A well-formed frame of an END-free payload that arrives as one chunk (the chunk reading is the model's: log entry 1)
at a START-free buffer is delivered: the payload is the one event, the buffer is empty, and only the two receive
counters grow. -/
def Obligations.FrameArrivalIsDelivered : Prop :=
  ∀ (p : Bytes) (h l : Byte) (s : State), wellFormed (.frame p h l) = true → endFree p → startFree s.rxbuf →
    exec (.frame p h l) s = .next { s with
      rxbuf := []
      totalReceivedBytes := s.totalReceivedBytes + (p.length + 6)
      totalPacketsReceived := s.totalPacketsReceived + 1
      outbox := s.outbox ++ [.events [.payloadReceived p]] }

/-! ### Counters, `SEND`, `RDCNT` (43_counters.md) -/

/-- `SEND` with the answer `Written(n)` returns the frame and the answer, and adds `n` and 1 to the sent counters and
nothing else; short writes and `n = 0` included (the amount is the spec's own decision D6: log entry 9). -/
def Obligations.SendCountsASuccessfulWrite : Prop :=
  ∀ (payload : Bytes) (n : Nat) (s : State),
    exec (.send payload (.written n)) s = .next { s with
      totalSentBytes := s.totalSentBytes + n
      totalPacketsSent := s.totalPacketsSent + 1
      outbox := s.outbox ++ [.sent (encodeFrame payload) (.written n)] }

/-- R163: a `SEND` whose write fails returns the frame and the failure; no retry, and the sent counters, like everything
else, are left unchanged. -/
def Obligations.SendFailureLeavesCounters : Prop :=
  ∀ (payload : Bytes) (s : State),
    exec (.send payload .failure) s = .next { s with
      outbox := s.outbox ++ [.sent (encodeFrame payload) .failure] }

/-- `RDCNT sel` returns the current value of the selected counter and changes nothing (one counter at a time is the
spec's own decision D13). -/
def Obligations.RdcntReturnsTheCounter : Prop :=
  ∀ s : State,
    exec (.rdcnt .totalSentBytes) s = .next { s with outbox := s.outbox ++ [.counter s.totalSentBytes] } ∧
    exec (.rdcnt .totalReceivedBytes) s = .next { s with outbox := s.outbox ++ [.counter s.totalReceivedBytes] } ∧
    exec (.rdcnt .totalPacketsSent) s = .next { s with outbox := s.outbox ++ [.counter s.totalPacketsSent] } ∧
    exec (.rdcnt .totalPacketsReceived) s =
      .next { s with outbox := s.outbox ++ [.counter s.totalPacketsReceived] } ∧
    exec (.rdcnt .lostPackets) s = .next { s with outbox := s.outbox ++ [.counter s.lostPackets] }

/-- The writers of each counter and the amounts (the table of 43_counters.md section 3; the amount of `SEND` is the
spec's own decision D6, the reset values D3): nobody else writes one. -/
def Obligations.CounterWriters : Prop :=
  ∀ (i : Instr) (s t : State), exec i s = .next t →
    match i with
    | .crc16 _ | .encode _ | .verify _ | .rdcnt _ | .send _ .failure =>
      ∀ sel, readCounter t sel = readCounter s sel
    | .send _ (.written n) =>
      t.totalSentBytes = s.totalSentBytes + n ∧ t.totalPacketsSent = s.totalPacketsSent + 1 ∧
      t.totalReceivedBytes = s.totalReceivedBytes ∧ t.totalPacketsReceived = s.totalPacketsReceived ∧
      t.lostPackets = s.lostPackets
    | .feed _ | .startDelim | .endDelim | .frame _ _ _ =>
      t.totalSentBytes = s.totalSentBytes ∧ t.totalPacketsSent = s.totalPacketsSent ∧
      ∃ es, t.outbox = s.outbox ++ [.events es] ∧
        t.totalReceivedBytes = s.totalReceivedBytes + (es.map packetLength).sum ∧
        t.totalPacketsReceived = s.totalPacketsReceived + es.length ∧
        t.lostPackets = s.lostPackets + es.countP isCorrupt
    | .reset => ∀ sel, readCounter t sel = 0

/-- 43_counters.md section 3, monotonicity (marked derived there): no operation but `RESET` lowers a counter, whatever
the state, and a step that lowers one has performed `RESET`. -/
def Obligations.CountersNeverDecrease : Prop :=
  (∀ (i : Instr) (s t : State), i ≠ .reset → exec i s = .next t → ∀ sel, readCounter s sel ≤ readCounter t sel) ∧
  (∀ (s t : State) (sel : CounterSel), step s = .next t → readCounter t sel < readCounter s sel →
    ∃ r rest, s.inbox = r :: rest ∧ decode r = .ok .reset)

/-- The packet invariant of 10_state.md section 6 and 43_counters.md section 3, as a law of the step: whatever a step from
a state that meets `Inv` does, in the state it leaves `totalPacketsReceived` is the number of `PayloadReceived` events since
the last `RESET` plus `lostPackets`, and so at least `lostPackets`. After a `RESET` both are the zeros of the spec's own
decision D3 (log entry 7); the mark that tells the last `RESET` is the model's choice (log entry 4). -/
def Obligations.PacketsReceivedAreValidPlusLost : Prop :=
  ∀ s t : State, Inv s → step s = .next t →
    t.totalPacketsReceived =
      (allEvents (sinceReset t.outbox)).countP (fun e => !isCorrupt e) + t.lostPackets ∧
    t.lostPackets ≤ t.totalPacketsReceived

/-- 43_counters.md section 3 on counter arithmetic, with the spec's decisions D4, D5, D17: a finite build that accepts
the chunk, has room for it and can hold the resulting counters does what the block does; otherwise it refuses by name,
and changes nothing. -/
def Obligations.FiniteBuildAgreesOrRefuses : Prop :=
  (∀ (b : Build) (c : Bytes) (s t : State), exec (.feed c) s = .next t →
    (within b.chunkMax c.length = true → within b.rxbufCap (s.rxbuf.length + c.length) = true →
      (∀ sel, counterFits b.cntW (readCounter t sel) = true) → feedIn b c s = .next t) ∧
    (within b.chunkMax c.length = false → feedIn b c s = .refused .chunkTooLong) ∧
    (within b.chunkMax c.length = true → within b.rxbufCap (s.rxbuf.length + c.length) = false →
      feedIn b c s = .refused .rxbufOverflow) ∧
    (within b.chunkMax c.length = true → within b.rxbufCap (s.rxbuf.length + c.length) = true →
      (∃ sel, counterFits b.cntW (readCounter t sel) = false) → feedIn b c s = .refused .counterOverflow)) ∧
  (∀ (b : Build) (p : Bytes) (wr : WriteResult) (s t : State), exec (.send p wr) s = .next t →
    ((∀ sel, counterFits b.cntW (readCounter t sel) = true) → sendIn b p wr s = .next t) ∧
    ((∃ sel, counterFits b.cntW (readCounter t sel) = false) → sendIn b p wr s = .refused .counterOverflow))

/-! ### Reset and the invariant (70_reset_and_hazards.md, 10_state.md) -/

/-- `RESET` empties the buffer and clears all five counters, from every state, and returns no value of the block (the
values are the spec's own decision D3, the whole and atomic reset D14: log entry 7). Two clauses are the model's choice:
the mark `resetDone` it appends in place of a value (log entry 4), and the count of draws that it leaves alone (log
entry 5). -/
def Obligations.ResetClearsEverything : Prop :=
  ∀ s : State, exec .reset s = .next { s with
    rxbuf := []
    totalSentBytes := 0
    totalReceivedBytes := 0
    totalPacketsSent := 0
    totalPacketsReceived := 0
    lostPackets := 0
    outbox := s.outbox ++ [.resetDone] }

/-- The state after reset (the spec's own decision D3: log entry 7): the buffer empty and every counter 0; every selector
of `RDCNT` returns 0 in it. -/
def Obligations.ResetState : Prop :=
  State.reset.rxbuf = [] ∧ (∀ sel, readCounter State.reset sel = 0) ∧
  ∀ sel, exec (.rdcnt sel) State.reset = .next { State.reset with outbox := [.counter 0] }

/-- The invariant holds right after reset. That rests on the zero counters and the empty buffer of the spec's own decision
D3 (log entry 7), and on the model's own fields as they are at reset, nothing returned (log entry 4) and nothing drawn
(log entry 5). -/
def Obligations.ResetMeetsTheInvariant : Prop := Inv State.reset

/-- Every step, from every state that meets the invariant, leaves a state that meets it: the buffer is quiescent between
operations (10_state.md section 5), the counters are what the returned values since the last `RESET` say (43_counters.md
section 3), and every `CorruptPacket` carries a draw of its own (00_scope.md R11). It rests on the spec's own decisions
D6, the amount that `Written(n)` adds (log entry 9), and D3, the zeros of `RESET` (log entry 7); and on the model's choices
that `RESET` leaves the mark by which `sinceReset` tells it (log entry 4) and that the draws are taken in order and their
count is kept over `RESET` (log entry 5). -/
def Obligations.StepKeepsTheInvariant : Prop :=
  ∀ s t : State, Inv s → step s = .next t → Inv t

/-! ### The machine as a whole -/

/-- 00_scope.md R15 and 44_laws.md section 2, totality: every instruction completes from every state; none faults and
none refuses. -/
def Obligations.EveryInstructionCompletes : Prop :=
  ∀ (i : Instr) (s : State), ∃ t, exec i s = .next t

/-- 00_scope.md section 7: an operation returns exactly one value of its own kind, takes back none that was returned before
and leaves what the host has presented alone. `RESET` is the exception: it returns nothing (30_encoding.md section 5), and
the mark `resetDone` that stands for it here is the model's choice, log entry 4. That the wire patterns return an event
list is log entry 1. -/
def Obligations.EachOperationReturnsOneValue : Prop :=
  ∀ (i : Instr) (s t : State), exec i s = .next t → t.inbox = s.inbox ∧
    ∃ r, t.outbox = s.outbox ++ [r] ∧
      match i with
      | .crc16 _ => ∃ w, r = .crc w
      | .encode _ => ∃ f, r = .frame f
      | .verify _ => ∃ v, r = .verdict v
      | .feed _ | .startDelim | .endDelim | .frame _ _ _ => ∃ es, r = .events es
      | .send p wr => r = .sent (encodeFrame p) wr
      | .rdcnt sel => r = .counter (readCounter s sel)
      | .reset => r = .resetDone

/-- A step takes the host's first request and runs the instruction it decodes to, from the state with that request taken
off; with nothing presented it waits and keeps everything (60_exceptions.md R179); a line that names no operation is
refused (log entries 2 and 3). -/
def Obligations.StepRunsTheDecodedInstruction : Prop :=
  (∀ (s : State) (r : Request) (rest : List Request) (i : Instr), s.inbox = r :: rest → decode r = .ok i →
    step s = exec i { s with inbox := rest }) ∧
  (∀ (s : State) (r : Request) (rest : List Request) (why : DecodeError), s.inbox = r :: rest →
    decode r = .error why → step s = .refused (.notAnOperation why)) ∧
  (∀ s : State, s.inbox = [] → step s = .next s)

/-- `withFetchWord` places the table's pattern as the next chunk: the next step runs the instruction that
`decodeTableWord` reads from it, from the state as it was (log entries 3 and 11). -/
def Obligations.FetchWordRunsNext : Prop :=
  ∀ (s : State) (nbits w : Nat) (i : Instr), decodeTableWord nbits w = some i →
    step (s.withFetchWord nbits w) = exec i s

/-! ### Encodings (30_encoding.md) -/

/-- Decoding what the encoder writes gives the instruction back, for every well-formed instruction and every value of
every operand: the written syntax of the seven operations (R69) and the three wire patterns (R60, R61). -/
def Obligations.DecodeInvertsEncode : Prop :=
  ∀ i : Instr, wellFormed i = true → decode (encode i) = .ok i

/-- No chunk is illegal (R67): every delivered chunk decodes, to a well-formed instruction whose effect is the `FEED` of
exactly its bytes, whichever pattern it is (the pattern reading is the model's: log entry 1). -/
def Obligations.EveryChunkIsFed : Prop :=
  ∀ c : Bytes, ∃ i, decode (.chunk c) = .ok i ∧ wellFormed i = true ∧ ∀ s, exec i s = exec (.feed c) s

/-- Words written out from the spec's encodings decode to what they stand for: the lines of R69, the wire patterns of
R60 and R61, the table's numbers, and lines that are no operation. What such a word does on the machine is the model's
choice: that a chunk of a pattern's bytes is that row of the table (log entry 1), that a line of R69 selects an operation
and any other line is refused (log entry 2), and how the table numbers a pattern (log entry 11). -/
def Obligations.WrittenWordsDecode : Prop :=
  decode (.line "FEED AA BB 41 42".toList) = .ok (.feed [0xAA, 0xBB, 0x41, 0x42]) ∧
  decode (.line "SEND 41 42 -> Written(8)".toList) = .ok (.send [0x41, 0x42] (.written 8)) ∧
  decode (.line "RDCNT lostPackets".toList) = .ok (.rdcnt .lostPackets) ∧
  decode (.line "RESET".toList) = .ok .reset ∧
  decode (.chunk [0xAA, 0xBB]) = .ok .startDelim ∧
  decode (.chunk [0xCC, 0xDD]) = .ok .endDelim ∧
  decode (.chunk [0xAA, 0xBB, 0x41, 0x42, 0xCC, 0xDD, 0x7B, 0xDD]) = .ok (.frame [0x41, 0x42] 0x7B 0xDD) ∧
  decodeTableWord 16 0xAABB = some .startDelim ∧ decodeTableWord 16 0xCCDD = some .endDelim ∧
  decode (.line "POKE 00".toList) = .error .unknownOperation
end

