-- ==== Sys2Proof/Laws/State.lean ====
section
/-! SUPPORT. One lemma per field of the state per update, each true by unfolding, so that no proof unfolds a record
update. -/

namespace Sys2Proof.Machine

variable (s : State) (v : Bytes) (k : Nat) (p : Bytes) (n : Nat) (r : Response) (q : Request)

/-! ### `bufAppend` -/

@[simp] theorem bufAppend_rxbuf : (bufAppend s v).rxbuf = s.rxbuf ++ v := rfl
@[simp] theorem bufAppend_totalSentBytes : (bufAppend s v).totalSentBytes = s.totalSentBytes := rfl
@[simp] theorem bufAppend_totalReceivedBytes : (bufAppend s v).totalReceivedBytes = s.totalReceivedBytes := rfl
@[simp] theorem bufAppend_totalPacketsSent : (bufAppend s v).totalPacketsSent = s.totalPacketsSent := rfl
@[simp] theorem bufAppend_totalPacketsReceived : (bufAppend s v).totalPacketsReceived = s.totalPacketsReceived := rfl
@[simp] theorem bufAppend_lostPackets : (bufAppend s v).lostPackets = s.lostPackets := rfl
@[simp] theorem bufAppend_inbox : (bufAppend s v).inbox = s.inbox := rfl
@[simp] theorem bufAppend_outbox : (bufAppend s v).outbox = s.outbox := rfl
@[simp] theorem bufAppend_tsDraws : (bufAppend s v).tsDraws = s.tsDraws := rfl

/-! ### `bufDropFront` -/

@[simp] theorem bufDropFront_rxbuf : (bufDropFront s k).rxbuf = s.rxbuf.drop k := rfl
@[simp] theorem bufDropFront_totalSentBytes : (bufDropFront s k).totalSentBytes = s.totalSentBytes := rfl
@[simp] theorem bufDropFront_totalReceivedBytes : (bufDropFront s k).totalReceivedBytes = s.totalReceivedBytes := rfl
@[simp] theorem bufDropFront_totalPacketsSent : (bufDropFront s k).totalPacketsSent = s.totalPacketsSent := rfl
@[simp] theorem bufDropFront_totalPacketsReceived : (bufDropFront s k).totalPacketsReceived = s.totalPacketsReceived := rfl
@[simp] theorem bufDropFront_lostPackets : (bufDropFront s k).lostPackets = s.lostPackets := rfl
@[simp] theorem bufDropFront_inbox : (bufDropFront s k).inbox = s.inbox := rfl
@[simp] theorem bufDropFront_outbox : (bufDropFront s k).outbox = s.outbox := rfl
@[simp] theorem bufDropFront_tsDraws : (bufDropFront s k).tsDraws = s.tsDraws := rfl

/-! ### `countReceived` -/

@[simp] theorem countReceived_rxbuf : (countReceived s p).rxbuf = s.rxbuf := rfl
@[simp] theorem countReceived_totalSentBytes : (countReceived s p).totalSentBytes = s.totalSentBytes := rfl
@[simp] theorem countReceived_totalReceivedBytes : (countReceived s p).totalReceivedBytes = s.totalReceivedBytes + p.length := rfl
@[simp] theorem countReceived_totalPacketsSent : (countReceived s p).totalPacketsSent = s.totalPacketsSent := rfl
@[simp] theorem countReceived_totalPacketsReceived : (countReceived s p).totalPacketsReceived = s.totalPacketsReceived + 1 := rfl
@[simp] theorem countReceived_lostPackets : (countReceived s p).lostPackets = s.lostPackets := rfl
@[simp] theorem countReceived_inbox : (countReceived s p).inbox = s.inbox := rfl
@[simp] theorem countReceived_outbox : (countReceived s p).outbox = s.outbox := rfl
@[simp] theorem countReceived_tsDraws : (countReceived s p).tsDraws = s.tsDraws := rfl

/-! ### `countLost` -/

@[simp] theorem countLost_rxbuf : (countLost s).rxbuf = s.rxbuf := rfl
@[simp] theorem countLost_totalSentBytes : (countLost s).totalSentBytes = s.totalSentBytes := rfl
@[simp] theorem countLost_totalReceivedBytes : (countLost s).totalReceivedBytes = s.totalReceivedBytes := rfl
@[simp] theorem countLost_totalPacketsSent : (countLost s).totalPacketsSent = s.totalPacketsSent := rfl
@[simp] theorem countLost_totalPacketsReceived : (countLost s).totalPacketsReceived = s.totalPacketsReceived := rfl
@[simp] theorem countLost_lostPackets : (countLost s).lostPackets = s.lostPackets + 1 := rfl
@[simp] theorem countLost_inbox : (countLost s).inbox = s.inbox := rfl
@[simp] theorem countLost_outbox : (countLost s).outbox = s.outbox := rfl
@[simp] theorem countLost_tsDraws : (countLost s).tsDraws = s.tsDraws := rfl

/-! ### `countSent` -/

@[simp] theorem countSent_rxbuf : (countSent s n).rxbuf = s.rxbuf := rfl
@[simp] theorem countSent_totalSentBytes : (countSent s n).totalSentBytes = s.totalSentBytes + n := rfl
@[simp] theorem countSent_totalReceivedBytes : (countSent s n).totalReceivedBytes = s.totalReceivedBytes := rfl
@[simp] theorem countSent_totalPacketsSent : (countSent s n).totalPacketsSent = s.totalPacketsSent + 1 := rfl
@[simp] theorem countSent_totalPacketsReceived : (countSent s n).totalPacketsReceived = s.totalPacketsReceived := rfl
@[simp] theorem countSent_lostPackets : (countSent s n).lostPackets = s.lostPackets := rfl
@[simp] theorem countSent_inbox : (countSent s n).inbox = s.inbox := rfl
@[simp] theorem countSent_outbox : (countSent s n).outbox = s.outbox := rfl
@[simp] theorem countSent_tsDraws : (countSent s n).tsDraws = s.tsDraws := rfl

/-! ### `clearAll` -/

@[simp] theorem clearAll_rxbuf : (clearAll s).rxbuf = [] := rfl
@[simp] theorem clearAll_totalSentBytes : (clearAll s).totalSentBytes = 0 := rfl
@[simp] theorem clearAll_totalReceivedBytes : (clearAll s).totalReceivedBytes = 0 := rfl
@[simp] theorem clearAll_totalPacketsSent : (clearAll s).totalPacketsSent = 0 := rfl
@[simp] theorem clearAll_totalPacketsReceived : (clearAll s).totalPacketsReceived = 0 := rfl
@[simp] theorem clearAll_lostPackets : (clearAll s).lostPackets = 0 := rfl
@[simp] theorem clearAll_inbox : (clearAll s).inbox = s.inbox := rfl
@[simp] theorem clearAll_outbox : (clearAll s).outbox = s.outbox := rfl
@[simp] theorem clearAll_tsDraws : (clearAll s).tsDraws = s.tsDraws := rfl

/-! ### `giveBack` -/

@[simp] theorem giveBack_rxbuf : (giveBack s r).rxbuf = s.rxbuf := rfl
@[simp] theorem giveBack_totalSentBytes : (giveBack s r).totalSentBytes = s.totalSentBytes := rfl
@[simp] theorem giveBack_totalReceivedBytes : (giveBack s r).totalReceivedBytes = s.totalReceivedBytes := rfl
@[simp] theorem giveBack_totalPacketsSent : (giveBack s r).totalPacketsSent = s.totalPacketsSent := rfl
@[simp] theorem giveBack_totalPacketsReceived : (giveBack s r).totalPacketsReceived = s.totalPacketsReceived := rfl
@[simp] theorem giveBack_lostPackets : (giveBack s r).lostPackets = s.lostPackets := rfl
@[simp] theorem giveBack_inbox : (giveBack s r).inbox = s.inbox := rfl
@[simp] theorem giveBack_outbox : (giveBack s r).outbox = s.outbox ++ [r] := rfl
@[simp] theorem giveBack_tsDraws : (giveBack s r).tsDraws = s.tsDraws := rfl

/-! ### `drawTimestamp` -/

@[simp] theorem drawTimestamp_rxbuf : (drawTimestamp s).rxbuf = s.rxbuf := rfl
@[simp] theorem drawTimestamp_totalSentBytes : (drawTimestamp s).totalSentBytes = s.totalSentBytes := rfl
@[simp] theorem drawTimestamp_totalReceivedBytes : (drawTimestamp s).totalReceivedBytes = s.totalReceivedBytes := rfl
@[simp] theorem drawTimestamp_totalPacketsSent : (drawTimestamp s).totalPacketsSent = s.totalPacketsSent := rfl
@[simp] theorem drawTimestamp_totalPacketsReceived : (drawTimestamp s).totalPacketsReceived = s.totalPacketsReceived := rfl
@[simp] theorem drawTimestamp_lostPackets : (drawTimestamp s).lostPackets = s.lostPackets := rfl
@[simp] theorem drawTimestamp_inbox : (drawTimestamp s).inbox = s.inbox := rfl
@[simp] theorem drawTimestamp_outbox : (drawTimestamp s).outbox = s.outbox := rfl
@[simp] theorem drawTimestamp_tsDraws : (drawTimestamp s).tsDraws = s.tsDraws + 1 := rfl

/-! ### `presentFirst` -/

@[simp] theorem presentFirst_rxbuf : (presentFirst s q).rxbuf = s.rxbuf := rfl
@[simp] theorem presentFirst_totalSentBytes : (presentFirst s q).totalSentBytes = s.totalSentBytes := rfl
@[simp] theorem presentFirst_totalReceivedBytes : (presentFirst s q).totalReceivedBytes = s.totalReceivedBytes := rfl
@[simp] theorem presentFirst_totalPacketsSent : (presentFirst s q).totalPacketsSent = s.totalPacketsSent := rfl
@[simp] theorem presentFirst_totalPacketsReceived : (presentFirst s q).totalPacketsReceived = s.totalPacketsReceived := rfl
@[simp] theorem presentFirst_lostPackets : (presentFirst s q).lostPackets = s.lostPackets := rfl
@[simp] theorem presentFirst_inbox : (presentFirst s q).inbox = q :: s.inbox := rfl
@[simp] theorem presentFirst_outbox : (presentFirst s q).outbox = s.outbox := rfl
@[simp] theorem presentFirst_tsDraws : (presentFirst s q).tsDraws = s.tsDraws := rfl

/-! ### Presenting and taking a request -/

@[simp] theorem takeRequest_presentFirst : takeRequest (presentFirst s q) = some (decode q, s) := rfl

theorem takeRequest_none (h : s.inbox = []) : takeRequest s = none := by simp [takeRequest, h]

/-! ### The write result -/

@[simp] theorem accountWrite_failure : accountWrite s .failure = s := rfl
@[simp] theorem accountWrite_written : accountWrite s (.written n) = countSent s n := rfl

end Sys2Proof.Machine
end

