-- ==== Sys2Proof/Laws/Ops.lean ====
section
/-! SUPPORT. What each shared operation can do, said once: the search, the check of a candidate packet, one pass of the
`FEED` loop, the loop, and the operations that a build can refuse. -/

namespace Sys2Proof.Machine

open Sys2Proof.Safety

/-! ### The clamped slice -/

theorem slice_length (s : Bytes) (a b : Nat) : (slice s a b).length = min b s.length - a := by simp [slice]

theorem slice_getElem? (s : Bytes) (a b i : Nat) : (slice s a b)[i]? = if a + i < b then s[a + i]? else none := by
  simp [slice, List.getElem?_take]

/-- The slice that `FEED` reads, written as `[i : j + 4]` (42_reassembler.md R107). -/
theorem memRead_packet (s : State) {i j : Nat} (h : i ≤ j) : memRead s i (j - i + 4) = slice s.rxbuf i (j + 4) := by
  rw [memRead, show i + (j - i + 4) = j + 4 by omega]

/-! ### The search -/

theorem findFirst_cons_cons (d : Delimiter) (a b : Byte) (rest : Bytes) :
    findFirst d (a :: b :: rest) =
      if a = d.first ∧ b = d.second then some 0 else (findFirst d (b :: rest)).map (· + 1) := rfl

theorem findFirst_eq_some_iff (d : Delimiter) (s : Bytes) (i : Nat) :
    findFirst d s = some i ↔ occursAt s d i ∧ ∀ j < i, ¬ occursAt s d j := by
  induction s generalizing i with
  | nil => simp [findFirst, occursAt]
  | cons a rest ih =>
    cases rest with
    | nil =>
      cases i <;> simp [findFirst, occursAt]
    | cons b rest =>
      rw [findFirst_cons_cons]
      split
      next h =>
        constructor
        · rintro ⟨rfl⟩
          exact ⟨⟨by simp [h.1], by simp [h.2]⟩, by simp⟩
        · rintro ⟨-, hmin⟩
          cases i with
          | zero => rfl
          | succ i => exact absurd ⟨by simp [h.1], by simp [h.2]⟩ (hmin 0 (by omega))
      next h =>
        cases i with
        | zero =>
          simp only [Option.map_eq_some_iff, Nat.add_eq_zero_iff, one_ne_zero, and_false, exists_false, false_iff]
          rintro ⟨⟨h1, h2⟩, -⟩
          exact h ⟨by simpa using h1, by simpa using h2⟩
        | succ i =>
          simp only [Option.map_eq_some_iff, Nat.add_right_cancel_iff, exists_eq_right, ih i]
          constructor
          · rintro ⟨⟨h1, h2⟩, hmin⟩
            refine ⟨⟨by simpa using h1, by simpa using h2⟩, fun j hj hocc => ?_⟩
            cases j with
            | zero => exact h ⟨by simpa using hocc.1, by simpa using hocc.2⟩
            | succ j => exact hmin j (by omega) ⟨by simpa using hocc.1, by simpa using hocc.2⟩
          · rintro ⟨⟨h1, h2⟩, hmin⟩
            exact ⟨⟨by simpa using h1, by simpa using h2⟩,
              fun j hj hocc => hmin (j + 1) (by omega) ⟨by simpa using hocc.1, by simpa using hocc.2⟩⟩

theorem findFirst_eq_none_iff (d : Delimiter) (s : Bytes) : findFirst d s = none ↔ ∀ i, ¬ occursAt s d i := by
  constructor
  · intro h i hi
    obtain ⟨m, hm, hmin⟩ : ∃ m, occursAt s d m ∧ ∀ j < m, ¬ occursAt s d j :=
      ⟨Nat.find ⟨i, hi⟩, Nat.find_spec ⟨i, hi⟩, fun j hj => Nat.find_min ⟨i, hi⟩ hj⟩
    simp [(findFirst_eq_some_iff d s m).2 ⟨hm, hmin⟩] at h
  · intro h
    cases hf : findFirst d s with
    | none => rfl
    | some i => exact absurd ((findFirst_eq_some_iff d s i).1 hf).1 (h i)

/-! ### The check of a candidate packet -/

theorem checkAndEmit_good {s : State} {p : Bytes} (h : verifyPacket p = true) :
    checkAndEmit s p = (s, .payloadReceived (stripPayload p)) := by simp [checkAndEmit, h]

theorem checkAndEmit_bad {s : State} {p : Bytes} (h : verifyPacket p = false) :
    checkAndEmit s p = (drawTimestamp (countLost s), .corruptPacket p (nextTimestamp s)) := by simp [checkAndEmit, h]

/-- Checking a packet touches only `lostPackets` and the draws. -/
theorem checkAndEmit_frame (s : State) (p : Bytes) :
    (checkAndEmit s p).1.rxbuf = s.rxbuf ∧ (checkAndEmit s p).1.totalSentBytes = s.totalSentBytes ∧
    (checkAndEmit s p).1.totalReceivedBytes = s.totalReceivedBytes ∧
    (checkAndEmit s p).1.totalPacketsSent = s.totalPacketsSent ∧
    (checkAndEmit s p).1.totalPacketsReceived = s.totalPacketsReceived ∧
    (checkAndEmit s p).1.inbox = s.inbox ∧ (checkAndEmit s p).1.outbox = s.outbox := by
  unfold checkAndEmit; split <;> simp

/-! ### One pass of the loop -/

/-- A pass extracts exactly when both searches succeed. -/
theorem extractNext_eq_some_iff {s : State} {x : State × FrameEvent} :
    extractNext s = some x ↔ ∃ i j, find s.rxbuf startMark 0 = some i ∧
      find s.rxbuf endMark (i + lenStart) = some j ∧ x = extractAt s i j := by
  unfold extractNext
  constructor
  · intro h
    split at h
    · split at h
      · cases h
      · next i hi =>
        split at h
        · cases h
        · next j hj => exact ⟨i, j, hi, hj, by simpa using h.symm⟩
    · cases h
  · rintro ⟨i, j, hi, hj, rfl⟩
    have hs : contains s.rxbuf startMark = true := by simp [contains, hi]
    have he : contains s.rxbuf endMark = true := by
      by_contra hne
      have hn : findFirst endMark s.rxbuf = none := by simpa [contains, find] using hne
      obtain ⟨m, hm, -⟩ := Option.map_eq_some_iff.1 hj
      have hocc := ((findFirst_eq_some_iff _ _ _).1 hm).1
      refine (findFirst_eq_none_iff _ _).1 hn (i + lenStart + m) ⟨?_, ?_⟩
      · simpa using hocc.1
      · simpa [Nat.add_assoc] using hocc.2
    simp [hs, he, hi, hj]

/-- A pass stops exactly when the buffer is quiescent (42_reassembler.md R103). -/
theorem extractNext_eq_none_iff {s : State} : extractNext s = none ↔ quiescent s.rxbuf = true := by
  constructor
  · intro h
    unfold quiescent
    split
    · rfl
    · next i hi =>
      cases hj : find s.rxbuf endMark (i + lenStart) with
      | none => rfl
      | some j => simp [extractNext_eq_some_iff.2 ⟨i, j, hi, hj, rfl⟩] at h
  · intro h
    cases hx : extractNext s with
    | none => rfl
    | some x =>
      obtain ⟨i, j, hi, hj, -⟩ := extractNext_eq_some_iff.1 hx
      simp [quiescent, hi, hj] at h

/-- What an extraction does to each field but `lostPackets` and the draws (R107 to R109). -/
theorem extractAt_frame (s : State) (i j : Nat) :
    (extractAt s i j).1.rxbuf = s.rxbuf.drop (j + 4) ∧
    (extractAt s i j).1.totalReceivedBytes = s.totalReceivedBytes + (memRead s i (j - i + 4)).length ∧
    (extractAt s i j).1.totalPacketsReceived = s.totalPacketsReceived + 1 ∧
    (extractAt s i j).1.totalSentBytes = s.totalSentBytes ∧
    (extractAt s i j).1.totalPacketsSent = s.totalPacketsSent ∧
    (extractAt s i j).1.inbox = s.inbox ∧ (extractAt s i j).1.outbox = s.outbox := by
  have h := checkAndEmit_frame (countReceived (bufDropFront s (j + (lenEnd + lenCrc)))
    (memRead s i (j - i + (lenEnd + lenCrc)))) (memRead s i (j - i + (lenEnd + lenCrc)))
  simpa [extractAt, lenEnd, lenCrc] using ⟨h.1, h.2.2.1, h.2.2.2.2.1, h.2.1, h.2.2.2.1, h.2.2.2.2.2.1, h.2.2.2.2.2.2⟩

/-- Both bytes of what `find` finds stand in the sequence, from the place the search began. -/
theorem find_bounds {b : Bytes} {d : Delimiter} {start i : Nat} (h : find b d start = some i) :
    start ≤ i ∧ i + 2 ≤ b.length := by
  obtain ⟨m, hm, rfl⟩ := Option.map_eq_some_iff.1 h
  have hocc := ((findFirst_eq_some_iff _ _ _).1 hm).1.2
  have hlt := (List.getElem?_eq_some_iff.1 hocc).1
  simp only [List.length_drop] at hlt
  omega

/-- Everything an extraction can do (R104 to R110): where the packet stands, what is left, what is counted, and the one
event, by the outcome of the check. -/
theorem extractNext_cases {s t : State} {e : FrameEvent} (h : extractNext s = some (t, e)) :
    ∃ i j packet, find s.rxbuf startMark 0 = some i ∧ find s.rxbuf endMark (i + 2) = some j ∧
      packet = slice s.rxbuf i (j + 4) ∧
      ((verifyPacket packet = true ∧ e = .payloadReceived (slice packet 2 (packet.length - 4)) ∧
          t = afterCut s packet (j + 4)) ∨
        (verifyPacket packet = false ∧ e = .corruptPacket packet (Config.timestampDraw s.tsDraws) ∧
          t = { afterCut s packet (j + 4) with lostPackets := s.lostPackets + 1, tsDraws := s.tsDraws + 1 })) := by
  obtain ⟨i, j, hi, hj, hx⟩ := extractNext_eq_some_iff.1 h
  have hle : i ≤ j := Nat.le_trans (Nat.le_add_right _ _) (find_bounds hj).1
  have hp : memRead s i (j - i + (lenEnd + lenCrc)) = slice s.rxbuf i (j + 4) := memRead_packet s hle
  refine ⟨i, j, _, hi, hj, rfl, ?_⟩
  simp only [extractAt, hp] at hx
  cases hv : verifyPacket (slice s.rxbuf i (j + 4)) with
  | true =>
    rw [checkAndEmit_good hv, Prod.mk.injEq] at hx
    exact .inl ⟨rfl, hx.2, hx.1⟩
  | false =>
    rw [checkAndEmit_bad hv, Prod.mk.injEq] at hx
    exact .inr ⟨rfl, hx.2, hx.1⟩

/-! ### The loop -/

theorem feedLoop_stop {s : State} (h : extractNext s = none) (fuel : Nat) : feedLoop fuel s = (s, []) := by
  cases fuel <;> simp [feedLoop, h]

theorem feedLoop_more {s t : State} {e : FrameEvent} (h : extractNext s = some (t, e)) (fuel : Nat) :
    feedLoop (fuel + 1) s = ((feedLoop fuel t).1, e :: (feedLoop fuel t).2) := by
  simp [feedLoop, h]

/-- What every extraction keeps, the loop keeps. -/
theorem feedLoop_keeps {P : State → Prop} (hP : ∀ s t e, P s → extractNext s = some (t, e) → P t) (fuel : Nat) :
    ∀ s, P s → P (feedLoop fuel s).1 := by
  induction fuel with
  | zero => exact fun s hs => hs
  | succ n ih =>
    intro s hs
    cases hx : extractNext s with
    | none => simpa [feedLoop_stop hx] using hs
    | some x => simpa [feedLoop_more hx] using ih _ (hP _ _ _ hs hx)

/-! ### Operations a build can refuse -/

@[simp] theorem within_none (n : Nat) : within none n = true := rfl
@[simp] theorem counterFits_none (n : Nat) : counterFits none n = true := rfl
@[simp] theorem countersFit_build (s : State) : countersFit Config.build s = true := rfl
@[simp] theorem completeIn_build (t : State) : completeIn Config.build t = .next t := rfl

/-- `FEED` in the spec's block always completes. -/
theorem execFeed_eq (c : Bytes) (s : State) :
    execFeed c s = .next (giveBack (feed s c).1 (.events (feed s c).2)) := rfl

theorem execStartDelim_eq (s : State) : execStartDelim s = execFeed (delimBytes startMark) s := rfl

theorem execEndDelim_eq (s : State) : execEndDelim s = execFeed (delimBytes endMark) s := rfl

theorem execFrame_eq (p : Bytes) (h l : Byte) (s : State) : execFrame p h l s = execFeed (wireFrame p h l) s := rfl

/-- `SEND` in the spec's block always completes. -/
theorem execSend_eq (p : Bytes) (wr : WriteResult) (s : State) :
    execSend p wr s = .next (giveBack (accountWrite s wr) (.sent (encodeFrame p) wr)) := rfl

end Sys2Proof.Machine
end

