-- ==== Sys2Proof/Laws/Feed.lean ====
section
/-! SUPPORT. The `FEED` loop without its bound on the number of passes: an extraction shortens the buffer, so the length
of the buffer always suffices, and the loop is the one its pseudocode describes. One equation for a loop that stops, one
for a loop that goes on, and one induction over its extractions, which later proofs cite. -/

namespace Sys2Proof.Machine

open Sys2Proof.Safety

/-- An extraction shortens the buffer. -/
theorem extractNext_shortens {s t : State} {e : FrameEvent} (h : extractNext s = some (t, e)) :
    t.rxbuf.length < s.rxbuf.length := by
  obtain ⟨i, j, packet, -, hj, -, hcase⟩ := extractNext_cases h
  have hlen := (find_bounds hj).2
  have hbuf : t.rxbuf = s.rxbuf.drop (j + 4) := by rcases hcase with ⟨-, -, rfl⟩ | ⟨-, -, rfl⟩ <;> rfl
  rw [hbuf, List.length_drop]
  omega

/-- As many passes as the buffer has bytes are enough: more change nothing. -/
theorem feedLoop_enough (n : Nat) : ∀ s : State, s.rxbuf.length ≤ n → feedLoop n s = feedLoop s.rxbuf.length s := by
  induction n using Nat.strong_induction_on with
  | _ n ih =>
    intro s hs
    cases hx : extractNext s with
    | none => rw [feedLoop_stop hx, feedLoop_stop hx]
    | some x =>
      obtain ⟨t, e⟩ := x
      have hlt := extractNext_shortens hx
      obtain ⟨k, hk⟩ : ∃ k, s.rxbuf.length = k + 1 := ⟨s.rxbuf.length - 1, by omega⟩
      obtain ⟨m, hm⟩ : ∃ m, n = m + 1 := ⟨n - 1, by omega⟩
      rw [hk, hm, feedLoop_more hx, feedLoop_more hx, ih m (by omega) t (by omega), ih k (by omega) t (by omega)]

/-- The loop of `FEED` run to its end. -/
abbrev drain (s : State) : State × List FrameEvent := feedLoop s.rxbuf.length s

theorem feed_eq_drain (s : State) (c : Bytes) : feed s c = drain (bufAppend s c) := rfl

theorem drain_stop {s : State} (h : extractNext s = none) : drain s = (s, []) := feedLoop_stop h _

theorem drain_more {s t : State} {e : FrameEvent} (h : extractNext s = some (t, e)) :
    drain s = ((drain t).1, e :: (drain t).2) := by
  have hlt := extractNext_shortens h
  obtain ⟨k, hk⟩ : ∃ k, s.rxbuf.length = k + 1 := ⟨s.rxbuf.length - 1, by omega⟩
  rw [drain, hk, feedLoop_more h, feedLoop_enough k t (by omega)]

/-- Induction over the extractions of the loop: a fact about a state and what the loop makes of it holds when it holds
where the loop stops and an extraction carries it over from what is left. -/
theorem drain_induction {motive : State → State → List FrameEvent → Prop}
    (stop : ∀ s, extractNext s = none → motive s s [])
    (more : ∀ s t e, extractNext s = some (t, e) → motive t (drain t).1 (drain t).2 →
      motive s (drain t).1 (e :: (drain t).2)) :
    ∀ s, motive s (drain s).1 (drain s).2 := by
  intro s
  induction hn : s.rxbuf.length using Nat.strong_induction_on generalizing s with
  | _ n ih =>
    cases hx : extractNext s with
    | none => rw [drain_stop hx]; exact stop s hx
    | some x =>
      obtain ⟨t, e⟩ := x
      have hlt := extractNext_shortens hx
      rw [drain_more hx]
      exact more s t e hx (ih _ (by omega) t rfl)

end Sys2Proof.Machine
end

