-- ==== Sys2Proof/Machine/Memory.lean ====
section
/-! DEFINITION. The receive buffer seen as memory (20_memory.md R40): the (address, byte) pairs of its index space, in
their one canonical form. The state holds the buffer as the byte sequence itself, which the spec says it is (R22), and
of which this view is a function (log entry 10). -/

namespace Sys2Proof.Machine

/-- The addressable cells of a buffer: index and byte, index 0 the oldest byte (R40). -/
def Memory.cells (b : Bytes) : List Host.Cell := b.zipIdx.map fun c => (c.2, c.1)

/-- The canonical form: the addresses are 0, 1, 2, … in this order, each once. An address that is not listed does not
exist and reads as nothing (R40, R42), so no entry can equal what an unlisted address reads as. -/
def Memory.wf (cells : List Host.Cell) : Bool := cells.map Prod.fst == List.range cells.length

/-- The byte read at an address; `none` at or beyond `len(RXBUF)` (R42). -/
def Memory.read (b : Bytes) (a : Nat) : Option Byte := b[a]?

end Sys2Proof.Machine
end

