-- ==== Sys2Proof/Laws/Memory.lean ====
section
/-! SUPPORT. The canonical form of the buffer's cells holds of every buffer, so every operation over the buffer keeps it,
and equal cells are equal buffers. -/

namespace Sys2Proof.Machine

theorem Memory.wf_cells (b : Bytes) : Memory.wf (Memory.cells b) = true := by
  simp only [Memory.wf, Memory.cells, List.map_map, List.length_map, List.length_zipIdx, beq_iff_eq]
  rw [show (Prod.fst ∘ fun c : Byte × Nat => (c.2, c.1)) = Prod.snd from rfl, List.zipIdx_map_snd, List.range_eq_range']

theorem Memory.cells_injective : Function.Injective Memory.cells := by
  intro a b h
  have := congrArg (List.map Prod.snd) h
  simpa [Memory.cells, List.map_map, Function.comp_def, List.zipIdx_map_fst] using this

theorem Memory.wf_bufAppend (s : State) (v : Bytes) : Memory.wf (Memory.cells (bufAppend s v).rxbuf) = true :=
  Memory.wf_cells _

theorem Memory.wf_bufDropFront (s : State) (k : Nat) : Memory.wf (Memory.cells (bufDropFront s k).rxbuf) = true :=
  Memory.wf_cells _

theorem Memory.wf_clearAll (s : State) : Memory.wf (Memory.cells (clearAll s).rxbuf) = true := Memory.wf_cells _

theorem Memory.wf_reset : Memory.wf (Memory.cells State.reset.rxbuf) = true := Memory.wf_cells _

@[simp] theorem Memory.read_append_left (b v : Bytes) (a : Nat) (h : a < b.length) :
    Memory.read (b ++ v) a = Memory.read b a := by
  simp [Memory.read, List.getElem?_append_left h]

@[simp] theorem Memory.read_drop (b : Bytes) (k a : Nat) : Memory.read (b.drop k) a = Memory.read b (k + a) := by
  simp [Memory.read]

end Sys2Proof.Machine
end

