-- ==== Sys2Proof/Laws/PerInstr.lean ====
section
/-! SUPPORT. A fact about every instruction as syntax: the form its encoding takes. The seven operations are encoded as a
line that begins with the name 30_encoding.md R68 gives them; the three wire patterns are encoded as a chunk. -/

namespace Sys2Proof.Laws.EncodeForm

/-- The name that selects the instruction (R68); a wire pattern has none. -/
def operationName : Instr → Option Token
  | .crc16 _ => some nameCrc16
  | .encode _ => some nameEncode
  | .verify _ => some nameVerify
  | .feed _ => some nameFeed
  | .send _ _ => some nameSend
  | .rdcnt _ => some nameRdcnt
  | .reset => some nameReset
  | .startDelim => none
  | .endDelim => none
  | .frame _ _ _ => none

/-- A line that begins with the instruction's name, or a chunk. -/
def Statement (i : Instr) : Prop :=
  match operationName i with
  | some name => ∃ rest, encode i = .line (name ++ rest)
  | none => ∃ c, encode i = .chunk c

theorem encodeLine_starts (name : Token) (args : List Token) :
    ∃ rest, encodeLine name args = .line (name ++ rest) := by
  cases args with
  | nil => exact ⟨[], by simp [encodeLine, joinWords]⟩
  | cons t ts => exact ⟨' ' :: joinWords (t :: ts), rfl⟩

theorem crc16 (data : Bytes) : Statement (.crc16 data) := encodeLine_starts _ _
theorem encode (payload : Bytes) : Statement (.encode payload) := encodeLine_starts _ _
theorem verify (packet : Bytes) : Statement (.verify packet) := encodeLine_starts _ _
theorem feed (newBytes : Bytes) : Statement (.feed newBytes) := encodeLine_starts _ _
theorem send (payload : Bytes) (wr : WriteResult) : Statement (.send payload wr) := encodeLine_starts _ _
theorem rdcnt (sel : CounterSel) : Statement (.rdcnt sel) := encodeLine_starts _ _
theorem reset : Statement .reset := encodeLine_starts _ _
theorem startDelim : Statement .startDelim := ⟨_, rfl⟩
theorem endDelim : Statement .endDelim := ⟨_, rfl⟩
theorem frame (payload : Bytes) (crcHi crcLo : Byte) : Statement (.frame payload crcHi crcLo) := ⟨_, rfl⟩

end Sys2Proof.Laws.EncodeForm
end

