-- ==== Sys2Proof/Tests/Slice0.lean ====
section
/-! SUPPORT. Tests of the model's own work. Expected results come from spec/: the vectors V1 to V76 of 95_test_vectors.md,
the worked examples of the rules, and words written out from the encodings of 30_encoding.md. After them, for every
statement that has hypotheses, a witness that meets them. -/

namespace Sys2Proof.Tests

open Sys2Proof.Machine Sys2Proof.Safety

/- Each of these theorems waits for the kernel; elaborated side by side they would hold a thread each. -/
set_option Elab.async false

/-! ### Helpers -/

/-- The state an instruction leaves. -/
def after (i : Instr) (s : State) : State :=
  match exec i s with
  | .next t => t
  | _ => s

/-- An event without its timestamp, which is free: whether it is a `PayloadReceived`, and its bytes. -/
def plain : FrameEvent → Bool × Bytes
  | .payloadReceived p => (true, p)
  | .corruptPacket r _ => (false, r)

/-- The events of the last returned value, without timestamps. -/
def lastEvents (s : State) : List (Bool × Bytes) := (allEvents (s.outbox.drop (s.outbox.length - 1))).map plain

/-- The reset state with a receive buffer. -/
def holding (b : Bytes) : State := { State.reset with rxbuf := b }

/-- The buffer and the five counters, in the order of 10_state.md. -/
def core (s : State) : Bytes × Nat × Nat × Nat × Nat × Nat :=
  (s.rxbuf, s.totalSentBytes, s.totalReceivedBytes, s.totalPacketsSent, s.totalPacketsReceived, s.lostPackets)

/-! ### WellFormed -/

/-- The one check: a frame whose CRC bytes are not those of its contents (`7B DD` for the payload `41 42`, V1). -/
theorem test_wellFormed_refuses_wrong_crc : wellFormed (.frame [0x41, 0x42] 0x7B 0xDC) = false := by decide +kernel

theorem test_wellFormed_accepts_right_crc : wellFormed (.frame [0x41, 0x42] 0x7B 0xDD) = true := by decide +kernel

/-! ### Decoding, by words written out from R69, R60 and R61 -/

theorem test_decode_crc16 : decode (.line "CRC16 31 32 33".toList) = .ok (.crc16 [0x31, 0x32, 0x33]) := by rfl
theorem test_decode_encode : decode (.line "ENCODE 41 42".toList) = .ok (.encode [0x41, 0x42]) := by rfl
theorem test_decode_verify : decode (.line "VERIFY FF FF => true".toList) = .ok (.verify [0xFF, 0xFF]) := by rfl
theorem test_decode_feed : decode (.line "FEED AA BB 41 42".toList) = .ok (.feed [0xAA, 0xBB, 0x41, 0x42]) := by rfl
theorem test_decode_feed_empty : decode (.line "FEED []".toList) = .ok (.feed []) := by rfl
theorem test_decode_send : decode (.line "SEND 41 42 -> Written(8)".toList) = .ok (.send [0x41, 0x42] (.written 8)) := by
  rfl
theorem test_decode_send_failure : decode (.line "SEND [] -> Failure".toList) = .ok (.send [] .failure) := by rfl
theorem test_decode_rdcnt : decode (.line "RDCNT lostPackets".toList) = .ok (.rdcnt .lostPackets) := by rfl
theorem test_decode_reset : decode (.line "RESET".toList) = .ok .reset := by rfl
/-- `LOOPBACK payload` is `FEED (ENCODE payload)` (R69); the frame is V1's. -/
theorem test_decode_loopback :
    (match decode (.line "LOOPBACK 41 42".toList) with
     | .ok i => decide (i = .feed [0xAA, 0xBB, 0x41, 0x42, 0xCC, 0xDD, 0x7B, 0xDD])
     | .error _ => false) = true := by decide +kernel
theorem test_decode_start : decode (.chunk [0xAA, 0xBB]) = .ok .startDelim := by rfl
theorem test_decode_end : decode (.chunk [0xCC, 0xDD]) = .ok .endDelim := by rfl
/-- The minimal frame, V20. -/
theorem test_decode_frame : decodeChunk [0xAA, 0xBB, 0xCC, 0xDD, 0x80, 0xC4] = .frame [] 0x80 0xC4 := by decide +kernel
/-- A frame with a flipped CRC bit (V3) is no FRAME; it is fed like any other chunk. -/
theorem test_decode_damaged_frame :
    decodeChunk [0xAA, 0xBB, 0xCC, 0xDD, 0x80, 0xC5] = .feed [0xAA, 0xBB, 0xCC, 0xDD, 0x80, 0xC5] := by decide +kernel
theorem test_decode_unknown : decode (.line "POKE 00".toList) = .error .unknownOperation := by rfl
theorem test_decode_no_bytes : decode (.line "FEED".toList) = .error .notAByteSequence := by rfl
theorem test_decode_bad_result : decode (.line "SEND 41 -> Written()".toList) = .error .notAWriteResult := by rfl
theorem test_decode_no_counter : decode (.line "RDCNT rxbuf".toList) = .error .notACounter := by rfl
theorem test_decode_reset_operand : decode (.line "RESET 00".toList) = .error .extraOperand := by rfl
theorem test_decode_empty_line : decode (.line "  ".toList) = .error .emptyLine := by rfl
/-- The table's numbers `0xAABB` and `0xCCDD` (spec/opcode_table.json, rows START and END). -/
theorem test_table_start : decodeTableWord 16 0xAABB = some .startDelim := by decide +kernel
theorem test_table_end : decodeTableWord 16 0xCCDD = some .endDelim := by decide +kernel
/-- The minimal frame of V20 as a number of 48 bits. -/
theorem test_table_frame : decodeTableWord 48 0xAABBCCDD80C4 = some (.frame [] 0x80 0xC4) := by decide +kernel
theorem test_encode_send : encode (.send [0xAA] (.written 120)) = .line "SEND AA -> Written(120)".toList := by rfl

/-! ### Meanings, by the vectors -/

/-- V5. -/
theorem test_crc16_check_string :
    (after (.crc16 [0x31, 0x32, 0x33, 0x34, 0x35, 0x36, 0x37, 0x38, 0x39]) State.reset).outbox = [.crc 0x4B37] := by
  decide +kernel
/-- V14. -/
theorem test_crc16_empty : (after (.crc16 []) State.reset).outbox = [.crc 0xFFFF] := by decide +kernel
/-- V22. -/
theorem test_encode_hello : (after (.encode [0x48, 0x65, 0x6C, 0x6C, 0x6F]) State.reset).outbox =
    [.frame [0xAA, 0xBB, 0x48, 0x65, 0x6C, 0x6C, 0x6F, 0xCC, 0xDD, 0x7C, 0x2F]] := by decide +kernel
/-- V23: no escaping. -/
theorem test_encode_end_in_payload : (after (.encode [0xCC, 0xDD]) State.reset).outbox =
    [.frame [0xAA, 0xBB, 0xCC, 0xDD, 0xCC, 0xDD, 0x39, 0xC6]] := by decide +kernel
/-- V27: byte order. -/
theorem test_verify_order : verifyPacket [0x00, 0x40, 0xBF] = true ∧ verifyPacket [0x00, 0xBF, 0x40] = false := by
  decide +kernel
/-- V25, V26: the size check. -/
theorem test_verify_sizes : verifyPacket [] = false ∧ verifyPacket [0x7B] = false ∧ verifyPacket [0xFF, 0xFF] = true := by
  decide +kernel
/-- V60: two corrupt packets and a good one in one chunk. -/
theorem test_feed_three_packets :
    let t := after (.feed ([0xAA, 0xBB, 0x48, 0x65, 0x4C, 0x6C, 0x6F, 0xCC, 0xDD, 0x7C, 0x2F] ++
      [0xAA, 0xBB, 0xBC, 0xCC, 0xDD, 0x71, 0x7C] ++ [0xAA, 0xBB, 0x41, 0x42, 0xCC, 0xDD, 0x7B, 0xDD])) State.reset
    lastEvents t = [(false, [0xAA, 0xBB, 0x48, 0x65, 0x4C, 0x6C, 0x6F, 0xCC, 0xDD, 0x7C, 0x2F]),
      (false, [0xAA, 0xBB, 0xBC, 0xCC, 0xDD, 0x71, 0x7C]), (true, [0x41, 0x42])] ∧ core t = ([], 0, 26, 0, 3, 2) := by
  decide +kernel
/-- V54: an `END` before the `START` stops the loop with everything kept. -/
theorem test_feed_end_before_start :
    let t := after (.feed [0xCC, 0xDD, 0xAA, 0xBB, 0x41]) State.reset
    lastEvents t = [] ∧ core t = ([0xCC, 0xDD, 0xAA, 0xBB, 0x41], 0, 0, 0, 0, 0) := by decide +kernel
/-- V42 with the END arriving by itself: the packet is cut short at the `END`. -/
theorem test_end_arrival_cuts_short :
    let t := after .endDelim (holding [0xAA, 0xBB, 0x41, 0x42])
    lastEvents t = [(false, [0xAA, 0xBB, 0x41, 0x42, 0xCC, 0xDD])] ∧ core t = ([], 0, 6, 0, 1, 1) := by decide +kernel
/-- V58: orphaned CRC bytes `AA BB` stay in the buffer. -/
theorem test_start_arrival_waits :
    let t := after .startDelim State.reset
    lastEvents t = [] ∧ core t = ([0xAA, 0xBB], 0, 0, 0, 0, 0) := by decide +kernel
/-- V45: junk in front of a frame is dropped and not counted. -/
theorem test_frame_arrival_after_junk :
    let t := after (.frame [0x41, 0x42] 0x7B 0xDD) (holding [0x6A, 0x75, 0x6E, 0x6B])
    lastEvents t = [(true, [0x41, 0x42])] ∧ core t = ([], 0, 8, 0, 1, 0) := by decide +kernel
/-- V72: a short write. -/
theorem test_send_short_write :
    let t := after (.send [0x43] (.written 3)) State.reset
    t.outbox = [.sent [0xAA, 0xBB, 0x43, 0xCC, 0xDD, 0x71, 0x7C] (.written 3)] ∧ core t = ([], 3, 0, 1, 0, 0) := by
  decide +kernel
/-- V71: a failed write. -/
theorem test_send_failure : core (after (.send [0x41, 0x42] .failure) State.reset) = ([], 0, 0, 0, 0, 0) := by
  decide +kernel
/-- V74: the selector reads its own counter. -/
theorem test_rdcnt_selects :
    ([CounterSel.totalSentBytes, .totalReceivedBytes, .totalPacketsSent, .totalPacketsReceived, .lostPackets].map
      (readCounter { State.reset with
        totalSentBytes := 1, totalReceivedBytes := 2, totalPacketsSent := 3, totalPacketsReceived := 4, lostPackets := 5 })) =
      [1, 2, 3, 4, 5] := by decide +kernel
/-- V75: `RESET` after V42. -/
theorem test_reset_clears :
    core (after .reset { holding [0x7B, 0xDD] with totalReceivedBytes := 6, totalPacketsReceived := 1, lostPackets := 1 }) =
      ([], 0, 0, 0, 0, 0) := by decide +kernel
/-- A line presented to the reset state runs (R69, V40). -/
theorem test_step_runs_line :
    (match step (presentFirst State.reset (.line "FEED AA BB 41 42 CC DD 7B DD".toList)) with
     | .next t => decide (lastEvents t = [(true, [0x41, 0x42])] ∧ t.inbox = [])
     | _ => false) = true := by decide +kernel
/-- The table's word of the row END, placed and fetched after reset (R61). -/
theorem test_step_runs_table_word :
    (match step (State.reset.withFetchWord 16 0xCCDD) with
     | .next t => decide (core t = ([0xCC, 0xDD], 0, 0, 0, 0, 0))
     | _ => false) = true := by decide +kernel
/-- U1, D5: a build with room for 3 bytes refuses a fourth. -/
theorem test_finite_build_refuses :
    (match feedIn { rxbufCap := some 3, cntW := none, chunkMax := none } [1, 2] (holding [3, 4]) with
     | .refused r => decide (r = .rxbufOverflow)
     | _ => false) = true := by decide +kernel

/-! ### Witnesses: for each statement with hypotheses, a state and operands that meet all of them

Where a hypothesis is that `exec` answers a next state, the witness names that state; where a statement has several
clauses, each has a witness of its own. -/

/-- `CrcTellsOneByteApart`, `VerifyRejectsOneByteChange`: V3, the payload byte `41` against `40`. -/
theorem witness_one_byte_change :
    (0x41 : Byte) ≠ 0x40 ∧
      verifyPacket ([0xAA, 0xBB] ++ (0x41 : Byte) :: [0x42, 0xCC, 0xDD, 0x7B, 0xDD]) = true := by decide +kernel

/-- `EncodedFrameFacts`: an index inside a payload, and an END-free payload. -/
theorem witness_payload_index :
    1 < ([0x41, 0x42] : Bytes).length ∧ contains ([0x41, 0x42] : Bytes) endMark = false := by decide +kernel

/-- `PayloadStripCountsBytes`: at the boundary, six bytes and five. -/
theorem witness_strip_lengths :
    6 ≤ ([0xAA, 0xBB, 0xCC, 0xDD, 0x80, 0xC4] : Bytes).length ∧ ([0xAA, 0xBB, 0xCC, 0xDD, 0x80] : Bytes).length < 6 := by
  decide +kernel

/-- `PayloadStripCountsBytes`, the index clause: a seven-byte packet has one payload byte. -/
theorem witness_strip_index : 0 < ([0xAA, 0xBB, 0x00, 0xCC, 0xDD, 0xA5, 0x8D] : Bytes).length - 6 := by decide +kernel

/-- `VerifyComparesTrailingCrc`: the longest packet that is too short. -/
theorem witness_verify_short : ([0x7B] : Bytes).length < 2 := by decide +kernel

/-- `BufferPrimitives`: dropping more than there is. -/
theorem witness_drop_all : (holding [0xAA]).rxbuf.length ≤ 4 := by decide +kernel

/-- `CrcShiftStep`: the topmost bit index below 15. -/
theorem witness_bit_index : 14 < 15 := by decide +kernel

/-- `DelimitersNeverOverlap`: a `START` with an `END` right behind it, with another `START` right behind it, and an `END`
with another `END` right behind it. -/
theorem witness_delimiters_touch :
    (occursAt [0xAA, 0xBB, 0xCC, 0xDD] startMark 0 ∧ occursAt [0xAA, 0xBB, 0xCC, 0xDD] endMark 2) ∧
    (occursAt [0xAA, 0xBB, 0xAA, 0xBB] startMark 0 ∧ occursAt [0xAA, 0xBB, 0xAA, 0xBB] startMark 2) ∧
    (occursAt [0xCC, 0xDD, 0xCC, 0xDD] endMark 0 ∧ occursAt [0xCC, 0xDD, 0xCC, 0xDD] endMark 2) := by decide +kernel

/-- `FeedLeavesTheSendSideAlone`, `CounterWriters`, `EachOperationReturnsOneValue`, `CountersNeverDecrease` (first part):
each instruction answers a next state. -/
theorem witness_exec_next (s : State) :
    (∃ t, exec (.feed [0xAA]) s = .next t) ∧ (∃ t, exec .startDelim s = .next t) ∧ (∃ t, exec .endDelim s = .next t) ∧
    (∃ t, exec (.frame [] 0x80 0xC4) s = .next t) ∧ (∃ t, exec (.crc16 []) s = .next t) ∧
    (∃ t, exec (.encode []) s = .next t) ∧ (∃ t, exec (.verify []) s = .next t) ∧
    (∃ t, exec (.send [] (.written 6)) s = .next t) ∧ (∃ t, exec (.send [] .failure) s = .next t) ∧
    (∃ t, exec (.rdcnt .lostPackets) s = .next t) ∧ ∃ t, exec .reset s = .next t :=
  ⟨⟨_, rfl⟩, ⟨_, rfl⟩, ⟨_, rfl⟩, ⟨_, rfl⟩, ⟨_, rfl⟩, ⟨_, rfl⟩, ⟨_, rfl⟩, ⟨_, rfl⟩, ⟨_, rfl⟩, ⟨_, rfl⟩, ⟨_, rfl⟩⟩

/-- `FeedLeavesTheSendSideAlone`: an instruction among those it names that answers a next state. -/
theorem witness_feeding_instruction :
    ∃ (i : Instr) (t : State), (i = .startDelim ∨ i = .endDelim ∨ (∃ c, i = .feed c) ∨ ∃ p h l, i = .frame p h l) ∧
      exec i State.reset = .next t := ⟨.endDelim, _, .inr (.inl rfl), rfl⟩

/-- `FeedWaitsForAnEnd`: no `START` at all (V59), and a `START` whose `END` lies before it (V54). -/
theorem witness_feed_waits :
    find ((holding [0x01, 0x02]).rxbuf ++ [0xCC, 0xDD]) startMark 0 = none ∧
    find ((holding [0xCC, 0xDD]).rxbuf ++ [0xAA, 0xBB, 0x41]) startMark 0 = some 2 ∧
    find ((holding [0xCC, 0xDD]).rxbuf ++ [0xAA, 0xBB, 0x41]) endMark (2 + 2) = none := by decide +kernel

/-- `FeedExtractsTheFirstPacket`, a packet that passes: V45, junk in front. -/
theorem witness_feed_extracts_good :
    find ((holding [0x6A]).rxbuf ++ [0xAA, 0xBB, 0xCC, 0xDD, 0x80, 0xC4]) startMark 0 = some 1 ∧
    find ((holding [0x6A]).rxbuf ++ [0xAA, 0xBB, 0xCC, 0xDD, 0x80, 0xC4]) endMark (1 + 2) = some 3 ∧
    verifyPacket (slice ((holding [0x6A]).rxbuf ++ [0xAA, 0xBB, 0xCC, 0xDD, 0x80, 0xC4]) 1 (3 + 4)) = true := by
  decide +kernel

/-- `FeedExtractsTheFirstPacket`, a packet that fails: V46, cut short at the `END`. -/
theorem witness_feed_extracts_bad :
    find ((holding [0xAA, 0xBB]).rxbuf ++ [0xCC, 0xDD]) startMark 0 = some 0 ∧
    find ((holding [0xAA, 0xBB]).rxbuf ++ [0xCC, 0xDD]) endMark (0 + 2) = some 2 ∧
    verifyPacket (slice ((holding [0xAA, 0xBB]).rxbuf ++ [0xCC, 0xDD]) 0 (2 + 4)) = false := by decide +kernel

/-- `FeedLeavesAQuiescentBuffer`, `FeedExtractionsAreBounded`: a `FEED` that answers a next state. -/
theorem witness_feed_next : ∃ t, exec (.feed [0xAA, 0xBB, 0xCC, 0xDD]) (holding [0x6A]) = .next t := ⟨_, rfl⟩

/-- `CandidatePacketShape`: the `END` is the last thing, one byte follows it, two bytes follow it. -/
theorem witness_candidate_shapes :
    (find [0xAA, 0xBB, 0xCC, 0xDD] startMark 0 = some 0 ∧ find [0xAA, 0xBB, 0xCC, 0xDD] endMark (0 + 2) = some 2 ∧
      2 + 2 = ([0xAA, 0xBB, 0xCC, 0xDD] : Bytes).length) ∧
    (find [0xAA, 0xBB, 0xCC, 0xDD, 0x63] startMark 0 = some 0 ∧
      find [0xAA, 0xBB, 0xCC, 0xDD, 0x63] endMark (0 + 2) = some 2 ∧
      2 + 3 = ([0xAA, 0xBB, 0xCC, 0xDD, 0x63] : Bytes).length) ∧
    (find [0xAA, 0xBB, 0xCC, 0xDD, 0x80, 0xC4] startMark 0 = some 0 ∧
      find [0xAA, 0xBB, 0xCC, 0xDD, 0x80, 0xC4] endMark (0 + 2) = some 2 ∧
      2 + 4 ≤ ([0xAA, 0xBB, 0xCC, 0xDD, 0x80, 0xC4] : Bytes).length) := by decide +kernel

/-- `VerifiedCandidateHasSixBytes`: V48, at the boundary; and an empty buffer. -/
theorem witness_verified_candidate :
    find [0xAA, 0xBB, 0xCC, 0xDD, 0x80, 0xC4] startMark 0 = some 0 ∧
    find [0xAA, 0xBB, 0xCC, 0xDD, 0x80, 0xC4] endMark (0 + 2) = some 2 ∧
    verifyPacket (slice [0xAA, 0xBB, 0xCC, 0xDD, 0x80, 0xC4] 0 (2 + 4)) = true ∧ State.reset.rxbuf = [] := by
  decide +kernel

/-- `FeedOfNothingChangesNothing`, `StartArrivalIsKept`: a quiescent buffer with a frame in flight. -/
theorem witness_quiescent : quiescent (holding [0xCC, 0xDD, 0xAA, 0xBB, 0x41]).rxbuf = true := by decide +kernel

/-- `GarbagePrefixIsDropped`: junk already there and junk fed, with an `END` and a last `AA` in it. -/
theorem witness_garbage :
    startFree ((holding [0x6A]).rxbuf ++ [0xCC, 0xDD, 0xAA]) ∧ endFree ([0x41, 0x42] : Bytes) := by decide +kernel

/-- `BurstIsDeliveredInOrder`: V50's payloads. -/
theorem witness_burst :
    ([[0x01], [0x02, 0x03], []] : List Bytes) ≠ [] ∧ startFree State.reset.rxbuf ∧
    ∀ p ∈ ([[0x01], [0x02, 0x03], []] : List Bytes), endFree p := by decide +kernel

/-- The prefix lengths of a list of chunks are 0 and those of its nonempty prefixes, however far `take` reaches. -/
theorem prefix_lengths_of_two (a b : Bytes) (n : Nat) (h0 : 0 ≠ n) (ha : a.length ≠ n) (hb : a.length + b.length ≠ n)
    (k : Nat) : (([a, b] : List Bytes).take k).flatten.length ≠ n := by
  match k with
  | 0 => simpa using h0
  | 1 => simpa using ha
  | k + 2 => simpa using hb

/-- `FragmentedFrameIsDelivered`: V44, the frame of `41 42` in two halves. -/
theorem witness_fragmented :
    endFree ([0x41, 0x42] : Bytes) ∧ startFree State.reset.rxbuf ∧
    ([[0xAA, 0xBB, 0x41, 0x42], [0xCC, 0xDD, 0x7B, 0xDD]] : List Bytes).flatten = encodeFrame [0x41, 0x42] ∧
    ∀ k, (([[0xAA, 0xBB, 0x41, 0x42], [0xCC, 0xDD, 0x7B, 0xDD]] : List Bytes).take k).flatten.length ≠
        ([0x41, 0x42] : Bytes).length + 4 ∧
      (([[0xAA, 0xBB, 0x41, 0x42], [0xCC, 0xDD, 0x7B, 0xDD]] : List Bytes).take k).flatten.length ≠
        ([0x41, 0x42] : Bytes).length + 5 :=
  ⟨by decide +kernel, by decide +kernel, by decide +kernel, fun k =>
    ⟨prefix_lengths_of_two _ _ _ (by decide) (by decide) (by decide) k,
     prefix_lengths_of_two _ _ _ (by decide) (by decide) (by decide) k⟩⟩

/-- `CutShortFrameIsNotDelivered`, both CRC bytes missing: V42, where the packet fails. -/
theorem witness_cut_short :
    endFree ([0x41, 0x42] : Bytes) ∧ startFree ([0x6A] : Bytes) ∧ 6 = ([0x41, 0x42] : Bytes).length + 4 ∧
    (holding [0x6A, 0xAA, 0xBB, 0x41]).rxbuf = [0x6A] ++ [0xAA, 0xBB, 0x41] ∧
    ([0xAA, 0xBB, 0x41] ++ [0x42, 0xCC, 0xDD] : Bytes) = (encodeFrame [0x41, 0x42]).take 6 ∧
    ([0xAA, 0xBB, 0x41] : Bytes).length < ([0x41, 0x42] : Bytes).length + 4 ∧
    verifyPacket ((encodeFrame [0x41, 0x42]).take 6) = false := by decide +kernel

/-- `CutShortFrameIsNotDelivered`, the coincidence: V49. -/
theorem witness_cut_short_passes :
    endFree ([0x10, 0x32] : Bytes) ∧ startFree ([] : Bytes) ∧ 6 = ([0x10, 0x32] : Bytes).length + 4 ∧
    State.reset.rxbuf = [] ++ [] ∧
    ([] ++ [0xAA, 0xBB, 0x10, 0x32, 0xCC, 0xDD] : Bytes) = (encodeFrame [0x10, 0x32]).take 6 ∧
    ([] : Bytes).length < ([0x10, 0x32] : Bytes).length + 4 ∧
    verifyPacket ((encodeFrame [0x10, 0x32]).take 6) = true := by decide +kernel

/-- `CutShortFrameIsNotDelivered`, one CRC byte missing: V43. -/
theorem witness_cut_between_crc_bytes :
    7 = ([0x41, 0x42] : Bytes).length + 5 ∧ State.reset.rxbuf = [] ++ [] ∧
    ([] ++ [0xAA, 0xBB, 0x41, 0x42, 0xCC, 0xDD, 0x7B] : Bytes) = (encodeFrame [0x41, 0x42]).take 7 := by decide +kernel

/-- `CutShortFrameIsNotDelivered`, what remains of the frame: both CRC bytes in two chunks after a cut at the `END`, one
after a cut between them. -/
theorem witness_cut_short_rest :
    (∃ t, exec (.feed [0x42, 0xCC, 0xDD]) (holding [0x6A, 0xAA, 0xBB, 0x41]) = .next t) ∧
    ([[0x7B], [0xDD]] : List Bytes).flatten = (encodeFrame [0x41, 0x42]).drop 6 ∧
    (∃ t, exec (.feed [0xAA, 0xBB, 0x41, 0x42, 0xCC, 0xDD, 0x7B]) State.reset = .next t) ∧
    ([[0xDD]] : List Bytes).flatten = (encodeFrame [0x41, 0x42]).drop 7 :=
  ⟨⟨_, rfl⟩, by decide +kernel, ⟨_, rfl⟩, by decide +kernel⟩

/-- `FeedLeavesAQuiescentBuffer`, `FeedConservesBytes`, `ChunkingIrrelevantWhenComplete`: V45 as a run of the pseudocode, one complete extraction. -/
theorem witness_feed_run :
    ∃ (xs : List Extraction) (u t : State),
      FeedRun { State.reset with rxbuf := State.reset.rxbuf ++ [0x6A, 0xAA, 0xBB, 0xCC, 0xDD, 0x80, 0xC4] } xs u ∧
      xs.length = 1 ∧ (∀ x ∈ xs, x.complete = true) ∧
      exec (.feed [0x6A, 0xAA, 0xBB, 0xCC, 0xDD, 0x80, 0xC4]) State.reset = .next t := by
  refine ⟨_, _, _, FeedRun.good _ _ 1 3 [0xAA, 0xBB, 0xCC, 0xDD, 0x80, 0xC4] [] ?_ ?_ ?_ ?_ ?_
    (FeedRun.noDelimiters _ ?_), rfl, ?_, rfl⟩ <;> decide +kernel

/-- `StaleStartSwallowsTheFrame`, the packet fails: V57 in two chunks. -/
theorem witness_stale_start :
    endFree ([0x43] : Bytes) ∧ find (holding [0xAA, 0xBB, 0x01, 0x02, 0x03]).rxbuf startMark 0 = some 0 ∧
    find (holding [0xAA, 0xBB, 0x01, 0x02, 0x03]).rxbuf endMark (0 + 2) = none ∧
    verifyPacket ((holding [0xAA, 0xBB, 0x01, 0x02, 0x03]).rxbuf.drop 0 ++ encodeFrame [0x43]) = false := by decide +kernel

/-- `StaleStartSwallowsTheFrame`, the coincidence: the CRC of `AA BB 68 76` is `FFFF`, so what follows it is checked as if
it stood alone. -/
theorem witness_stale_start_passes :
    endFree ([0x43] : Bytes) ∧ find (holding [0xAA, 0xBB, 0x68, 0x76]).rxbuf startMark 0 = some 0 ∧
    find (holding [0xAA, 0xBB, 0x68, 0x76]).rxbuf endMark (0 + 2) = none ∧
    verifyPacket ((holding [0xAA, 0xBB, 0x68, 0x76]).rxbuf.drop 0 ++ encodeFrame [0x43]) = true := by decide +kernel

/-- `EndInsideThePayloadCutsTheFrame`: V52. -/
theorem witness_end_inside :
    endFree ([] : Bytes) ∧ startFree State.reset.rxbuf ∧
    ∃ t, exec (.feed (encodeFrame ([] ++ [0xCC, 0xDD] ++ []))) State.reset = .next t :=
  ⟨by decide +kernel, by decide +kernel, _, rfl⟩

/-- `FeedDependsOnlyOnTheBuffer`: two states that differ in a counter and in what was returned. -/
theorem witness_same_buffer :
    ∃ s s' t t' : State, s ≠ s' ∧ s.rxbuf = s'.rxbuf ∧ s.tsDraws = s'.tsDraws ∧
      exec (.feed [0xAA]) s = .next t ∧ exec (.feed [0xAA]) s' = .next t' :=
  ⟨State.reset, { State.reset with lostPackets := 7, outbox := [.verdict true] }, _, _, by decide, rfl, rfl, rfl, rfl⟩

/-- `EndArrivalCompletesOrWaits`: no `START`; a `START` waiting and a packet that fails; one that passes (V49). -/
theorem witness_end_arrival :
    startFree (holding [0x01, 0x02]).rxbuf ∧
    (find (holding [0xAA, 0xBB]).rxbuf startMark 0 = some 0 ∧ find (holding [0xAA, 0xBB]).rxbuf endMark (0 + 2) = none ∧
      verifyPacket ((holding [0xAA, 0xBB]).rxbuf.drop 0 ++ [0xCC, 0xDD]) = false) ∧
    (find (holding [0xAA, 0xBB, 0x10, 0x32]).rxbuf startMark 0 = some 0 ∧
      find (holding [0xAA, 0xBB, 0x10, 0x32]).rxbuf endMark (0 + 2) = none ∧
      verifyPacket ((holding [0xAA, 0xBB, 0x10, 0x32]).rxbuf.drop 0 ++ [0xCC, 0xDD]) = true) := by decide +kernel

/-- `FrameArrivalIsDelivered`, `DecodeInvertsEncode`: the frame of V1. -/
theorem witness_frame :
    wellFormed (.frame [0x41, 0x42] 0x7B 0xDD) = true ∧ endFree ([0x41, 0x42] : Bytes) ∧ startFree State.reset.rxbuf := by
  decide +kernel

/-- `CountersNeverDecrease`, second part: the step that performs `RESET` lowers a counter. -/
theorem witness_reset_lowers :
    ∃ t, step { State.reset with lostPackets := 1, inbox := [.line "RESET".toList] } = .next t ∧
      readCounter t .lostPackets <
        readCounter { State.reset with lostPackets := 1, inbox := [.line "RESET".toList] } .lostPackets :=
  ⟨_, rfl, by decide⟩

/-- `PacketsReceivedAreValidPlusLost`: a step from right after reset that takes a packet cut short (V47) and loses it. -/
theorem witness_packet_lost :
    ∃ s t : State, Inv s ∧ step s = .next t ∧ t.totalPacketsReceived = 1 ∧ t.lostPackets = 1 := by
  refine ⟨presentFirst State.reset (.chunk [0xAA, 0xBB, 0xCC, 0xDD, 0x63]), _, ?_, rfl, ?_, ?_⟩
  · constructor <;> rfl
  all_goals decide +kernel

/-- `PacketsReceivedAreValidPlusLost`, `StepKeepsTheInvariant`: a state after one corrupt packet and one send, with bytes
waiting, that meets the invariant, and from which a step answers a next state. -/
theorem witness_invariant :
    ∃ s t : State, s.lostPackets = 1 ∧ s.totalSentBytes = 6 ∧ s.rxbuf ≠ [] ∧ Inv s ∧ step s = .next t := by
  refine ⟨{ rxbuf := [0x7B]
            totalSentBytes := 6
            totalReceivedBytes := 4
            totalPacketsSent := 1
            totalPacketsReceived := 1
            lostPackets := 1
            inbox := [.line "RESET".toList]
            tsDraws := 1
            outbox := [.events [.corruptPacket [0xAA, 0xBB, 0xCC, 0xDD] (Config.timestampDraw 0)],
      .sent [0xAA, 0xBB, 0xCC, 0xDD, 0x80, 0xC4] (.written 6)] }, _, rfl, rfl, by decide, ?_, rfl⟩
  constructor <;> rfl

/-- `FiniteBuildAgreesOrRefuses`: a build that agrees, and one of each that refuses, for `FEED` and for `SEND`. -/
theorem witness_finite_build :
    (∃ t, exec (.feed [1, 2]) (holding [3]) = .next t ∧ within (some 2) ([1, 2] : Bytes).length = true ∧
      within (some 3) ((holding [3]).rxbuf.length + ([1, 2] : Bytes).length) = true ∧
      ∀ sel, counterFits (some 1) (readCounter t sel) = true) ∧
    within (some 1) ([1, 2] : Bytes).length = false ∧
    within (some 2) ((holding [3]).rxbuf.length + ([1, 2] : Bytes).length) = false ∧
    (∃ t, exec (.feed [0xAA, 0xBB, 0xCC, 0xDD]) State.reset = .next t ∧
      ∃ sel, counterFits (some 2) (readCounter t sel) = false) ∧
    (∃ t, exec (.send [] (.written 3)) State.reset = .next t ∧ ∀ sel, counterFits (some 2) (readCounter t sel) = true) ∧
    ∃ t, exec (.send [] (.written 4)) State.reset = .next t ∧ ∃ sel, counterFits (some 2) (readCounter t sel) = false :=
  ⟨⟨_, rfl, by decide +kernel, by decide +kernel, fun sel => by cases sel <;> decide +kernel⟩,
    by decide +kernel, by decide +kernel, ⟨_, rfl, .totalReceivedBytes, by decide +kernel⟩,
    ⟨_, rfl, fun sel => by cases sel <;> decide +kernel⟩, ⟨_, rfl, .totalSentBytes, by decide +kernel⟩⟩

/-- `StepRunsTheDecodedInstruction`: a request that decodes, one that does not, and none. -/
theorem witness_requests :
    (∃ s r rest i, (s : State).inbox = r :: rest ∧ decode r = .ok i) ∧
    (∃ s r rest why, (s : State).inbox = r :: rest ∧ decode r = .error why) ∧ State.reset.inbox = [] :=
  ⟨⟨presentFirst State.reset (.line "RESET".toList), _, _, .reset, rfl, rfl⟩,
    ⟨presentFirst State.reset (.line "POKE 00".toList), _, _, .unknownOperation, rfl, rfl⟩, rfl⟩

/-- `FetchWordRunsNext`: the table's word of START. -/
theorem witness_fetch_word : decodeTableWord 16 0xAABB = some .startDelim := by decide +kernel

end Sys2Proof.Tests
end

section
/-! SUPPORT. The counters of 43_counters.md section 3 only grow, but for `RESET`: what each shared operation does to a
counter read through `readCounter`, what a step can do, and from these monotonicity. -/

namespace Sys2Proof.Machine

open Sys2Proof.Safety

/-! ### What a step can do -/

/-- A step that answers a next state either waited or performed the instruction its first request decodes to. -/
theorem step_next_cases {s t : State} (h : step s = .next t) :
    (s.inbox = [] ∧ t = s) ∨
      ∃ r rest i, s.inbox = r :: rest ∧ decode r = .ok i ∧ exec i { s with inbox := rest } = .next t := by
  cases hin : s.inbox with
  | nil =>
    rw [step, takeRequest_none s hin] at h
    cases h
    exact .inl ⟨rfl, rfl⟩
  | cons r rest =>
    simp only [step, takeRequest, hin] at h
    cases hd : decode r with
    | error why => simp [hd] at h
    | ok i => exact .inr ⟨r, rest, i, rfl, hd, by simpa [hd] using h⟩

/-! ### Updates that leave every counter alone -/

@[simp] theorem readCounter_giveBack (s : State) (r : Response) (sel : CounterSel) :
    readCounter (giveBack s r) sel = readCounter s sel := by cases sel <;> rfl

@[simp] theorem readCounter_bufAppend (s : State) (v : Bytes) (sel : CounterSel) :
    readCounter (bufAppend s v) sel = readCounter s sel := by cases sel <;> rfl

@[simp] theorem readCounter_with_inbox (s : State) (rest : List Request) (sel : CounterSel) :
    readCounter { s with inbox := rest } sel = readCounter s sel := by cases sel <;> rfl

/-! ### Updates that count -/

/-- Accounting a write adds to the sent counters or changes nothing (R130). -/
theorem readCounter_le_accountWrite (s : State) (wr : WriteResult) (sel : CounterSel) :
    readCounter s sel ≤ readCounter (accountWrite s wr) sel := by
  cases wr with
  | failure => exact le_rfl
  | written n => cases sel <;> simp [readCounter]

/-- An extraction adds to the received counters, and to `lostPackets` when its packet fails the check (R109, R110). -/
theorem readCounter_le_extractNext {s t : State} {e : FrameEvent} (h : extractNext s = some (t, e)) (sel : CounterSel) :
    readCounter s sel ≤ readCounter t sel := by
  obtain ⟨i, j, packet, -, -, -, ⟨-, -, rfl⟩ | ⟨-, -, rfl⟩⟩ := extractNext_cases h
  · cases sel <;> simp [readCounter, afterCut]
  · cases sel <;> simp [readCounter, afterCut]

theorem readCounter_le_feed (s : State) (c : Bytes) (sel : CounterSel) :
    readCounter s sel ≤ readCounter (feed s c).1 sel :=
  feedLoop_keeps (P := fun u => readCounter s sel ≤ readCounter u sel)
    (fun _ _ _ hle hx => hle.trans (readCounter_le_extractNext hx sel)) _ _ (readCounter_bufAppend s c sel).ge

theorem readCounter_le_execFeed {s t : State} {c : Bytes} (h : execFeed c s = .next t) (sel : CounterSel) :
    readCounter s sel ≤ readCounter t sel := by
  rw [execFeed_eq] at h
  cases h
  simpa using readCounter_le_feed s c sel

/-! ### The instructions -/

theorem readCounter_le_exec {i : Instr} {s t : State} (hi : i ≠ .reset) (h : exec i s = .next t) (sel : CounterSel) :
    readCounter s sel ≤ readCounter t sel := by
  cases i with
  | crc16 data | encode payload | verify packet | rdcnt sel' =>
    cases h
    exact (readCounter_giveBack s _ sel).ge
  | send payload wr =>
    cases h
    simpa using readCounter_le_accountWrite s wr sel
  | feed c | startDelim | endDelim | frame payload crcHi crcLo => exact readCounter_le_execFeed h sel
  | reset => exact absurd rfl hi

/-- A step that lowers a counter performed `RESET`: it did not wait, and no other instruction lowers one. -/
theorem decode_reset_of_step_lowers {s t : State} {sel : CounterSel} (h : step s = .next t)
    (hlt : readCounter t sel < readCounter s sel) : ∃ r rest, s.inbox = r :: rest ∧ decode r = .ok .reset := by
  obtain ⟨-, rfl⟩ | ⟨r, rest, i, hin, hd, hexec⟩ := step_next_cases h
  · exact absurd hlt (lt_irrefl _)
  · obtain rfl : i = .reset := by
      by_contra hi
      exact hlt.not_ge (by simpa using readCounter_le_exec hi hexec sel)
    exact ⟨r, rest, hin, hd⟩

/-- Settles O45: every instruction but `RESET` only adds to the counters, and a step performs one instruction. -/
theorem countersNeverDecrease : Obligations.CountersNeverDecrease :=
  ⟨fun _ _ _ hi h => readCounter_le_exec hi h, fun _ _ _ => decode_reset_of_step_lowers⟩

end Sys2Proof.Machine
end

section
/-! SUPPORT. The receive buffer of 20_memory.md: `find` and `contains` in terms of where a delimiter occurs, occurrences
inside a slice, which delimiters can touch, what the buffer primitives do index by index, and from these the shape of a
candidate packet (42_reassembler.md R113). -/

namespace Sys2Proof.Machine

open Sys2Proof.Safety

/-! ### Occurrences of a delimiter -/

theorem lt_length_of_occursAt {s : Bytes} {d : Delimiter} {i : Nat} (h : occursAt s d i) : i + 1 < s.length :=
  (List.getElem?_eq_some_iff.1 h.2).1

theorem occursAt_drop (s : Bytes) (d : Delimiter) (k i : Nat) : occursAt (s.drop k) d i ↔ occursAt s d (k + i) := by
  simp [occursAt, Nat.add_assoc]

/-- An occurrence in a slice is one in the whole sequence, both of whose bytes lie before the slice's end. -/
theorem occursAt_slice (s : Bytes) (d : Delimiter) (a e i : Nat) :
    occursAt (slice s a e) d i ↔ a + i + 2 ≤ e ∧ occursAt s d (a + i) := by
  simp only [occursAt, slice_getElem?, Option.ite_none_right_eq_some, Nat.add_assoc]
  constructor
  · rintro ⟨⟨-, h1⟩, hlt, h2⟩
    exact ⟨hlt, h1, h2⟩
  · rintro ⟨hle, h1, h2⟩
    exact ⟨⟨by omega, h1⟩, hle, h2⟩

/-- Two occurrences one index apart share a byte, the second of the one and the first of the other. -/
theorem second_eq_first_of_occursAt_succ {t : Bytes} {d d' : Delimiter} {i : Nat} (h : occursAt t d i)
    (h' : occursAt t d' (i + 1)) : d.second = d'.first :=
  Option.some.inj (h.2.symm.trans h'.1)

/-- Delimiters that share no byte crosswise occur at one index or do not overlap (R55). -/
theorem occursAt_same_or_apart {t : Bytes} {d d' : Delimiter} {i j : Nat} (hd : d.second ≠ d'.first)
    (hd' : d'.second ≠ d.first) (h : occursAt t d i) (h' : occursAt t d' j) : j = i ∨ j + 2 ≤ i ∨ i + 2 ≤ j := by
  have hright : j ≠ i + 1 := by
    rintro rfl
    exact hd (second_eq_first_of_occursAt_succ h h')
  have hleft : i ≠ j + 1 := by
    rintro rfl
    exact hd' (second_eq_first_of_occursAt_succ h' h)
  omega

/-- Settles O17: the four delimiter bytes are pairwise different, so no second byte is a first byte, and `START` and `END`
do not begin at one index. -/
theorem delimitersNeverOverlap : Obligations.DelimitersNeverOverlap := by
  intro t i j
  refine ⟨fun hs he => ?_, occursAt_same_or_apart (by decide) (by decide),
    occursAt_same_or_apart (by decide) (by decide)⟩
  have hne : j ≠ i := by
    rintro rfl
    exact absurd (Option.some.inj (hs.1.symm.trans he.1)) (by decide)
  exact (occursAt_same_or_apart (by decide) (by decide) hs he).resolve_left hne

/-! ### The search -/

theorem find_eq_some_iff (s : Bytes) (d : Delimiter) (start i : Nat) :
    find s d start = some i ↔ start ≤ i ∧ occursAt s d i ∧ ∀ j, start ≤ j → j < i → ¬ occursAt s d j := by
  simp only [find, Option.map_eq_some_iff, findFirst_eq_some_iff, occursAt_drop]
  constructor
  · rintro ⟨m, ⟨hocc, hmin⟩, rfl⟩
    refine ⟨Nat.le_add_left _ _, Nat.add_comm start m ▸ hocc, fun j hj hlt => ?_⟩
    obtain ⟨k, rfl⟩ := Nat.exists_eq_add_of_le hj
    exact hmin k (by omega)
  · rintro ⟨hle, hocc, hmin⟩
    obtain ⟨m, rfl⟩ := Nat.exists_eq_add_of_le hle
    exact ⟨m, ⟨hocc, fun j hj => hmin _ (Nat.le_add_right _ _) (by omega)⟩, Nat.add_comm _ _⟩

theorem find_eq_none_iff (s : Bytes) (d : Delimiter) (start : Nat) :
    find s d start = none ↔ ∀ j, start ≤ j → ¬ occursAt s d j := by
  simp only [find, Option.map_eq_none_iff, findFirst_eq_none_iff, occursAt_drop]
  constructor
  · intro h j hj
    obtain ⟨k, rfl⟩ := Nat.exists_eq_add_of_le hj
    exact h k
  · exact fun h k => h _ (Nat.le_add_right _ _)

theorem contains_eq_true_iff (s : Bytes) (d : Delimiter) : contains s d = true ↔ ∃ j, occursAt s d j := by
  simp [contains, Option.isSome_iff_ne_none, find_eq_none_iff]

/-- Settles O15: the searches as equivalences; that both bytes are there bounds the index. -/
theorem findIsFirstOccurrence : Obligations.FindIsFirstOccurrence := by
  refine ⟨fun s d start i => (find_eq_some_iff s d start i).trans ?_, find_eq_none_iff, contains_eq_true_iff⟩
  constructor
  · rintro ⟨hle, hocc, hmin⟩
    exact ⟨hle, lt_length_of_occursAt hocc, hocc.1, hocc.2, hmin⟩
  · rintro ⟨hle, -, h1, h2, hmin⟩
    exact ⟨hle, ⟨h1, h2⟩, hmin⟩

/-- What a search finds, the same search finds in a slice that holds it. -/
theorem find_slice {s : Bytes} {d : Delimiter} {a e k m : Nat} (h : find s d (a + k) = some (a + m))
    (he : a + m + 2 ≤ e) : find (slice s a e) d k = some m := by
  obtain ⟨hle, hocc, hmin⟩ := (find_eq_some_iff _ _ _ _).1 h
  refine (find_eq_some_iff _ _ _ _).2 ⟨by omega, (occursAt_slice _ _ _ _ _).2 ⟨he, hocc⟩, fun j hj hlt hj' => ?_⟩
  exact hmin (a + j) (by omega) (by omega) ((occursAt_slice _ _ _ _ _).1 hj').2

/-- Settles O23: the packet's length is that of the clamped slice, and what stands in the buffer from `i` to the end of
the `END` stands in the packet. -/
theorem candidatePacketShape : Obligations.CandidatePacketShape := by
  intro b i j hi hj
  obtain ⟨hij, hjb⟩ := find_bounds hj
  have hlen : (slice b i (j + 4)).length = min (j + 4) b.length - i := slice_length b i (j + 4)
  have hstart : occursAt (slice b i (j + 4)) startMark 0 :=
    (occursAt_slice _ _ _ _ _).2 ⟨by omega, ((find_eq_some_iff _ _ _ _).1 hi).2.1⟩
  have hend : find (slice b i (j + 4)) endMark 2 = some (j - i) := by
    obtain ⟨m, rfl⟩ := Nat.exists_eq_add_of_le (show i ≤ j by omega)
    rw [Nat.add_sub_cancel_left]
    exact find_slice hj (by omega)
  refine ⟨hij, hjb, fun _ => by omega, fun _ => ⟨by omega, ?_⟩, fun _ => ⟨by omega, ?_⟩, by omega,
    hstart.1, hstart.2, hend⟩
  all_goals exact List.drop_eq_nil_of_le (by omega)

/-! ### The buffer primitives -/

theorem memRead_length (s : State) (addr n : Nat) :
    (memRead s addr n).length = min (addr + n) s.rxbuf.length - addr := slice_length _ _ _

theorem memRead_getElem? (s : State) (addr n i : Nat) :
    (memRead s addr n)[i]? = if i < n then s.rxbuf[addr + i]? else none := by
  simp [memRead, slice_getElem?]

/-- Settles O16: index by index, through the library's facts about appending and dropping. -/
theorem bufferPrimitives : Obligations.BufferPrimitives := by
  exact ⟨fun s v => ⟨rfl, List.length_append, fun i => List.getElem?_append⟩,
    fun s addr n => ⟨memRead_length s addr n, memRead_getElem? s addr n⟩,
    fun s k => ⟨rfl, fun i => List.getElem?_drop, List.drop_eq_nil_of_le⟩⟩

end Sys2Proof.Machine
end

section
/-! SUPPORT. The fields of a candidate packet (30_encoding.md section 2): the CRC field as it is written and as it is read
(R62), and the payload strip by lengths and by index (R63). -/

namespace Sys2Proof.Machine

/-! ### The CRC field -/

/-- A word is its high byte above its low byte. -/
theorem hi8_shift_or_lo8 (c : Word16) : (zext16 (hi8 c) <<< 8) ||| zext16 (lo8 c) = c := by
  ext i hi
  simp only [zext16, hi8, lo8, BitVec.getElem_or, BitVec.getElem_shiftLeft, BitVec.getElem_setWidth,
    BitVec.getLsbD_extractLsb']
  rcases lt_or_ge i 8 with hlow | hhigh
  · simp [hlow, BitVec.getLsbD_eq_getElem hi]
  · simp [hhigh, hhigh.not_gt, show i - 8 < 8 by omega, BitVec.getLsbD_eq_getElem hi]

theorem receivedCrc_append_pair (d : Bytes) (h l : Byte) :
    receivedCrc (d ++ [h, l]) = (zext16 h <<< 8) ||| zext16 l := by
  simp [receivedCrc, byteAt]

theorem receivedCrc_append_crcField (d : Bytes) (c : Word16) : receivedCrc (d ++ crcField c) = c :=
  (receivedCrc_append_pair d (hi8 c) (lo8 c)).trans (hi8_shift_or_lo8 c)

/-- Settles O10: reading takes the last two bytes high byte first, which puts together what writing took apart. -/
theorem crcFieldIsBigEndian : Obligations.CrcFieldIsBigEndian :=
  ⟨fun _ => rfl, receivedCrc_append_pair, receivedCrc_append_crcField⟩

/-! ### The payload strip -/

theorem stripPayload_length (p : Bytes) : (stripPayload p).length = p.length - 6 := by
  rw [stripPayload, slice_length, lenStart, lenEnd, lenCrc]
  omega

theorem stripPayload_getElem? (p : Bytes) (i : Nat) :
    (stripPayload p)[i]? = if i < p.length - 6 then p[2 + i]? else none := by
  rw [stripPayload, slice_getElem?, lenStart, lenEnd, lenCrc]
  exact if_congr (by omega) rfl rfl

/-- The strip sees only how many bytes stand in front and behind. -/
theorem stripPayload_append {front back : Bytes} (p : Bytes) (hf : front.length = 2) (hb : back.length = 4) :
    stripPayload (front ++ p ++ back) = p := by
  have hstop : (front ++ p ++ back).length - 4 = (front ++ p).length := by
    rw [List.length_append, hb, Nat.add_sub_cancel]
  rw [stripPayload, slice, lenStart, lenEnd, lenCrc, hstop, List.take_left, ← hf, List.drop_left]

/-- Settles O11: the strip of an explicit packet, its length, and its bytes index by index; below six bytes the length
is 0. -/
theorem payloadStripCountsBytes : Obligations.PayloadStripCountsBytes := by
  refine ⟨fun _ _ _ _ _ _ p => stripPayload_append p rfl rfl, fun p _ => ⟨stripPayload_length p, fun i hi => ?_⟩,
    fun p hp => ?_⟩
  · rw [stripPayload_getElem?, if_pos hi]
  · exact List.eq_nil_of_length_eq_zero (by rw [stripPayload_length]; omega)

end Sys2Proof.Machine
end

section
/-! SUPPORT. The CRC-16 generator (40_crc16.md): the 1-bit step is linear over XOR and has an inverse, a byte step is
eight of them, and the loop composes byte steps. -/

namespace Sys2Proof.Machine

/-! ### The 1-bit step (R80) -/

/-- What the step XORs into the shifted word (R80), by the bit that was shifted out. -/
def crcMask (bit : Bool) : Word16 := if bit = true then crcPoly else 0

theorem crcMask_xor (p q : Bool) : crcMask (p ^^ q) = crcMask p ^^^ crcMask q := by
  cases p <;> cases q <;> rfl

theorem crcMask_getLsbD_15 (bit : Bool) : (crcMask bit).getLsbD 15 = bit := by cases bit <;> rfl

theorem crcShift_eq_xor (r : Word16) : crcShift r = (r >>> 1) ^^^ crcMask (r.getLsbD 0) := by
  unfold crcShift crcMask lowBit
  split
  · rfl
  · exact (xor_zero _).symm

theorem ushiftRight_one_getLsbD_15 (r : Word16) : (r >>> 1).getLsbD 15 = false := by
  rw [BitVec.getLsbD_ushiftRight, BitVec.getLsbD_of_ge r (1 + 15) le_rfl]

/-- The shift brings a 0 into bit 15 and the polynomial has bit 15 set: bit 15 of the result is the bit shifted out. -/
theorem crcShift_getLsbD_15 (r : Word16) : (crcShift r).getLsbD 15 = r.getLsbD 0 := by
  rw [crcShift_eq_xor, BitVec.getLsbD_xor, ushiftRight_one_getLsbD_15, crcMask_getLsbD_15, Bool.false_xor]

/-- Settles O1: the step is its definition, and the bits of a logical shift are the library's. -/
theorem crcShiftStep : Obligations.CrcShiftStep := by
  refine ⟨fun _ => rfl, fun r => ⟨ushiftRight_one_getLsbD_15 r, fun k _ => ?_⟩, crcShift_getLsbD_15, ?_⟩
  · rw [BitVec.getLsbD_ushiftRight, Nat.add_comm]
  · decide

/-- The step is linear: the bit it tests and the shift both commute with XOR. -/
theorem crcShift_xor (x y : Word16) : crcShift (x ^^^ y) = crcShift x ^^^ crcShift y := by
  simp only [crcShift_eq_xor, BitVec.getLsbD_xor, BitVec.ushiftRight_xor_distrib, crcMask_xor]
  ac_rfl

theorem iterate_crcShift_xor (n : Nat) (x y : Word16) : crcShift^[n] (x ^^^ y) = crcShift^[n] x ^^^ crcShift^[n] y := by
  induction n generalizing x y with
  | zero => rfl
  | succ n ih => simp only [Function.iterate_succ_apply, crcShift_xor, ih]

/-- While no bit that is shifted out is 1, the steps are a plain shift. -/
theorem iterate_crcShift_of_low_zero {n : Nat} {r : Word16} (h : ∀ k < n, r.getLsbD k = false) :
    crcShift^[n] r = r >>> n := by
  induction n with
  | zero => simp
  | succ n ih =>
    have hbit : (r >>> n).getLsbD 0 = false := by simpa using h n n.lt_succ_self
    rw [Function.iterate_succ_apply', ih fun k hk => h k (by omega), crcShift_eq_xor, hbit, BitVec.shiftRight_add]
    exact xor_zero _

/-! ### The byte step (R81) -/

theorem crcUpdate_eq_iterate (r : Word16) (b : Byte) : crcUpdate r b = crcShift^[8] (r ^^^ zext16 b) := rfl

theorem lo8_zext16 (b : Byte) : lo8 (zext16 b) = b := by
  ext i hi
  simp [lo8, zext16, show i < 16 by omega, BitVec.getLsbD_eq_getElem hi]

theorem hi8_zext16 (b : Byte) : hi8 (zext16 b) = 0 := by
  ext i hi
  simp [hi8, zext16]

theorem hi8_xor_zext16 (r : Word16) (b : Byte) : hi8 (r ^^^ zext16 b) = hi8 r := by
  rw [hi8, BitVec.extractLsb'_xor, ← hi8, ← hi8, hi8_zext16, xor_zero]

theorem lo8_xor_zext16 (r : Word16) (b : Byte) : lo8 (r ^^^ zext16 b) = lo8 r ^^^ b := by
  rw [lo8, BitVec.extractLsb'_xor, ← lo8, ← lo8, lo8_zext16]

/-- Settles O2: eight steps of the byte-widened XOR by definition, byte by byte, and the rule's printed words. -/
theorem crcUpdateIsEightShifts : Obligations.CrcUpdateIsEightShifts := by
  refine ⟨crcUpdate_eq_iterate, fun r b => ⟨hi8_xor_zext16 r b, lo8_xor_zext16 r b⟩, ?_⟩
  decide

/-- A word is its high byte shifted into place XOR its low byte. -/
theorem shift_back_xor_lo8 (w : Word16) : ((w >>> 8) <<< 8) ^^^ zext16 (lo8 w) = w := by
  ext i hi
  rcases lt_or_ge i 8 with hlow | hhigh
  · simp [zext16, lo8, hlow, BitVec.getLsbD_eq_getElem hi]
  · simp [zext16, lo8, hhigh.not_gt, BitVec.getLsbD_eq_getElem hi, hhigh]

theorem xor_zext16_ushiftRight_8 (r : Word16) (b : Byte) : (r ^^^ zext16 b) >>> 8 = r >>> 8 := by
  ext i hi
  simp [zext16]

/-- The table form (40_crc16.md section 4): by linearity the high byte is only shifted down, and the eight steps act on
the low byte alone. -/
theorem crcUpdate_eq_table (r : Word16) (b : Byte) :
    crcUpdate r b = (r >>> 8) ^^^ crcUpdate 0 (lo8 (r ^^^ zext16 b)) := by
  set w := r ^^^ zext16 b with hw
  have hhigh : crcShift^[8] ((w >>> 8) <<< 8) = w >>> 8 := by
    rw [iterate_crcShift_of_low_zero fun k hk => by simp [hk]]
    ext i hi
    simpa [Nat.add_comm] using BitVec.lt_of_getLsbD
  calc crcUpdate r b = crcShift^[8] (((w >>> 8) <<< 8) ^^^ zext16 (lo8 w)) := by
        rw [shift_back_xor_lo8, hw, crcUpdate_eq_iterate]
    _ = (r >>> 8) ^^^ crcUpdate 0 (lo8 w) := by
        rw [iterate_crcShift_xor, hhigh, hw, xor_zext16_ushiftRight_8, crcUpdate_eq_iterate, zero_xor]

/-- Settles O5: the table form, and the printed entries by evaluation. -/
theorem crcTableFormAgrees : Obligations.CrcTableFormAgrees :=
  ⟨crcUpdate_eq_table, by decide⟩

/-! ### The inverse (40_crc16.md section 5) -/

/-- What undoes a 1-bit step: bit 15 tells which bit was shifted out. -/
def crcUnshift (y : Word16) : Word16 :=
  ((y ^^^ crcMask (y.getLsbD 15)) <<< 1) ||| (if y.getLsbD 15 = true then 1 else 0)

/-- A word is its upper 15 bits shifted back with its bit 0 put in again. -/
theorem shift_back_or_low_bit (r : Word16) : ((r >>> 1) <<< 1) ||| (if r.getLsbD 0 = true then 1 else 0) = r := by
  ext i hi
  cases i with
  | zero => cases h : r.getLsbD 0 <;> simp_all [BitVec.getLsbD_eq_getElem]
  | succ i => cases h : r.getLsbD 0 <;> simp [BitVec.getLsbD_eq_getElem hi, Nat.add_comm]

theorem crcUnshift_crcShift : Function.LeftInverse crcUnshift crcShift := by
  intro r
  rw [crcUnshift, crcShift_getLsbD_15, crcShift_eq_xor, xor_cancel_right, shift_back_or_low_bit]

theorem crcShift_injective : Function.Injective crcShift := crcUnshift_crcShift.injective

theorem zext16_injective : Function.Injective zext16 := Function.LeftInverse.injective lo8_zext16

theorem crcUpdate_injective_register (b : Byte) : Function.Injective fun r => crcUpdate r b :=
  fun _ _ h => (BitVec.xor_left_inj _).1 (crcShift_injective.iterate 8 h)

theorem crcUpdate_injective_byte (r : Word16) : Function.Injective (crcUpdate r) :=
  fun _ _ h => zext16_injective ((BitVec.xor_right_inj _).1 (crcShift_injective.iterate 8 h))

theorem crcFold_injective (data : Bytes) : Function.Injective fun r => crcFold r data := by
  induction data with
  | nil => exact Function.injective_id
  | cons b bs ih => exact ih.comp (crcUpdate_injective_register b)

/-- Settles O6: the inverse undoes the step, so every step is injective, and the 16-bit words are finitely many. -/
theorem crcStepsInvertible : Obligations.CrcStepsInvertible :=
  ⟨fun r => (crcUnshift_crcShift r).symm, crcShift_injective.bijective_of_finite,
    fun b => (crcUpdate_injective_register b).bijective_of_finite, crcUpdate_injective_byte,
    fun data => (crcFold_injective data).bijective_of_finite⟩

/-! ### The loop (R82) -/

theorem crcFold_eq_foldl (r : Word16) (data : Bytes) : crcFold r data = data.foldl crcUpdate r := by
  induction data generalizing r with
  | nil => rfl
  | cons b bs ih => exact ih (crcUpdate r b)

theorem crcFold_append (r : Word16) (a b : Bytes) : crcFold r (a ++ b) = crcFold (crcFold r a) b := by
  simp only [crcFold_eq_foldl, List.foldl_append]

theorem crc16_append (a b : Bytes) : crc16 (a ++ b) = crcFold (crc16 a) b := crcFold_append crcInit a b

/-- Settles O4: the loop is a left fold, and a left fold goes over an append. -/
theorem crcFoldsOverAppend : Obligations.CrcFoldsOverAppend :=
  fun r a b => ⟨rfl, crcFold_append r a b, crc16_append a b⟩

theorem exec_crc16 (data : Bytes) (s : State) : exec (.crc16 data) s = .next (giveBack s (.crc (crc16 data))) := rfl

/-- What `CRC16` answers, from the value of the CRC. -/
theorem exec_crc16_of_eq {data : Bytes} {c : Word16} (h : crc16 data = c) (s : State) :
    exec (.crc16 data) s = .next { s with outbox := s.outbox ++ [.crc c] } := h ▸ exec_crc16 data s

/-- Settles O3: `CRC16` answers the fold from `FFFF` and touches `outbox` alone; the rule's values by evaluation. -/
theorem crc16ReturnsRegister : Obligations.Crc16ReturnsRegister :=
  ⟨fun data => exec_crc16_of_eq (crcFold_eq_foldl crcInit data), exec_crc16_of_eq (by decide),
    exec_crc16_of_eq (by decide), exec_crc16_of_eq (by decide +kernel), by decide +kernel⟩

/-- Settles O7: the byte step tells the two bytes apart, and the rest of the loop keeps the registers apart. -/
theorem crcTellsOneByteApart : Obligations.CrcTellsOneByteApart := by
  intro a c x y hxy h
  rw [crc16_append, crc16_append] at h
  exact hxy (crcUpdate_injective_byte _ (crcFold_injective c h))

end Sys2Proof.Machine
end

section
/-! SUPPORT. `VERIFY` (41_framecodec.md R91): which packets pass, and that a change of one byte is noticed (44_laws.md
section 1). -/

namespace Sys2Proof.Machine

theorem exec_verify (packet : Bytes) (s : State) :
    exec (.verify packet) s = .next (giveBack s (.verdict (verifyPacket packet))) := rfl

theorem verifyPacket_append_pair (d : Bytes) (h l : Byte) :
    verifyPacket (d ++ [h, l]) = decide ((zext16 h <<< 8) ||| zext16 l = crc16 d) := by
  simp [verifyPacket, receivedCrc_append_pair, slice, beq_eq_decide]

theorem crcField_of_bytes (h l : Byte) : crcField ((zext16 h <<< 8) ||| zext16 l) = [h, l] := by
  have hhigh : hi8 ((zext16 h <<< 8) ||| zext16 l) = h := by
    ext i hi
    simp [hi8, zext16, show 8 + i < 16 by omega, BitVec.getLsbD_eq_getElem hi]
  have hlow : lo8 ((zext16 h <<< 8) ||| zext16 l) = l := by
    ext i hi
    simp [lo8, zext16, hi, show i < 16 by omega]
  rw [crcField, hhigh, hlow]

/-- What passes `VERIFY` is exactly a byte sequence with its own CRC behind it. -/
theorem verifyPacket_eq_true_iff (p : Bytes) : verifyPacket p = true ↔ ∃ d, p = d ++ crcField (crc16 d) := by
  constructor
  · intro hp
    have hlen : 2 ≤ p.length := by
      by_contra hshort
      simp [verifyPacket, Nat.lt_of_not_le hshort] at hp
    obtain ⟨h, l, htail⟩ := List.length_eq_two.1 (show (p.drop (p.length - 2)).length = 2 by simp; omega)
    have hsplit : p = p.take (p.length - 2) ++ [h, l] := by rw [← htail, List.take_append_drop]
    rw [hsplit, verifyPacket_append_pair, decide_eq_true_eq] at hp
    exact ⟨p.take (p.length - 2), by rwa [← hp, crcField_of_bytes]⟩
  · rintro ⟨d, rfl⟩
    rw [crcField, verifyPacket_append_pair, hi8_shift_or_lo8, decide_eq_true rfl]

/-- A byte inside a sequence cut in two stands behind the cut or in front of it. -/
theorem append_cons_eq_append {a c d f : Bytes} {x : Byte} (h : a ++ x :: c = d ++ f) :
    (∃ m, a = d ++ m ∧ f = m ++ x :: c) ∨ ∃ t, d = a ++ x :: t ∧ c = t ++ f := by
  obtain ⟨m, rfl, hm⟩ | hback := List.append_eq_append_iff.1 h
  · obtain ⟨rfl, rfl⟩ | ⟨t, rfl, rfl⟩ := List.cons_eq_append_iff.1 hm
    · exact .inl ⟨[], by simp, rfl⟩
    · exact .inr ⟨t, rfl, rfl⟩
  · exact .inl hback

theorem crcField_injective : Function.Injective crcField := fun c c' h => by
  rw [← receivedCrc_append_crcField [] c, h, receivedCrc_append_crcField]

/-- Two packets that differ in one byte at most and both pass `VERIFY` are one. With the byte in the CRC field the bytes
in front are the same and so the fields are; with the byte in front of it the field is the CRC of both fronts. -/
theorem eq_of_verifyPacket {a c : Bytes} {x y : Byte} (hx : verifyPacket (a ++ x :: c) = true)
    (hy : verifyPacket (a ++ y :: c) = true) : x = y := by
  obtain ⟨d, hd⟩ := (verifyPacket_eq_true_iff _).1 hx
  obtain ⟨d', hd'⟩ := (verifyPacket_eq_true_iff _).1 hy
  obtain ⟨m, rfl, hfield⟩ | ⟨t, rfl, rfl⟩ := append_cons_eq_append hd
  · rw [List.append_assoc] at hd'
    obtain ⟨rfl, hfield'⟩ := List.append_inj' hd' (by simpa [crcField] using (congrArg List.length hfield).symm)
    exact (List.cons.inj (List.append_cancel_left (hfield.symm.trans hfield'.symm))).1
  · rw [← List.cons_append, ← List.append_assoc] at hd'
    obtain ⟨rfl, hcrc⟩ := List.append_inj' hd' rfl
    by_contra hxy
    exact crcTellsOneByteApart a t x y hxy (crcField_injective hcrc)

/-- Settles O14: `VERIFY` answers whether the packet passes, and the changed packet does not. -/
theorem verifyRejectsOneByteChange : Obligations.VerifyRejectsOneByteChange := by
  intro a c x y s hxy hx
  have hy : verifyPacket (a ++ y :: c) = false := eq_false_of_ne_true fun hy => hxy (eq_of_verifyPacket hx hy)
  rw [exec_verify, hy]
  rfl

end Sys2Proof.Machine
end

section
/-! SUPPORT. `ENCODE` (41_framecodec.md R90): the frame as three parts, its bytes by index, that the payload strip undoes
it, and where the delimiters are found in it. -/

namespace Sys2Proof.Machine

open Sys2Proof.Safety

/-! ### The operation (R90) -/

/-- What `ENCODE` answers, from the bytes of the frame. -/
theorem exec_encode_of_eq {payload f : Bytes} (h : encodeFrame payload = f) (s : State) :
    exec (.encode payload) s = .next { s with outbox := s.outbox ++ [.frame f] } := h ▸ rfl

/-- Settles O8: the frame is the concatenation by definition; the rule's two frames by evaluation. -/
theorem encodeReturnsFrame : Obligations.EncodeReturnsFrame :=
  ⟨fun _ => exec_encode_of_eq rfl, exec_encode_of_eq (by decide +kernel), exec_encode_of_eq (by decide +kernel)⟩

/-! ### The bytes of a frame -/

/-- The payload with the two bytes of `START` in front and the four of `END` and the CRC field behind. -/
theorem encodeFrame_eq (p : Bytes) :
    encodeFrame p = delimBytes startMark ++ p ++ (delimBytes endMark ++ crcField (crc16 (frameBody p))) :=
  List.append_assoc _ _ _

theorem encodeFrame_length (p : Bytes) : (encodeFrame p).length = p.length + 6 := by
  simp [encodeFrame_eq, delimBytes, crcField]

theorem frameBody_length (p : Bytes) : (frameBody p).length = p.length + 4 := by
  simp [frameBody, delimBytes]

theorem encodeFrame_take_body (p : Bytes) : (encodeFrame p).take (p.length + 4) = frameBody p := by
  rw [encodeFrame, ← frameBody_length, List.take_left]

theorem stripPayload_encodeFrame (p : Bytes) : stripPayload (encodeFrame p) = p := by
  rw [encodeFrame_eq]
  exact stripPayload_append p rfl rfl

theorem encodeFrame_injective : Function.Injective encodeFrame :=
  Function.LeftInverse.injective stripPayload_encodeFrame

theorem encodeFrame_getElem?_payload {p : Bytes} {i : Nat} (hi : i < p.length) : (encodeFrame p)[2 + i]? = p[i]? := by
  have h := stripPayload_getElem? (encodeFrame p) i
  rw [stripPayload_encodeFrame, encodeFrame_length, Nat.add_sub_cancel, if_pos hi] at h
  exact h.symm

/-! ### The delimiters of a frame -/

theorem occursAt_startMark_encodeFrame (p : Bytes) : occursAt (encodeFrame p) startMark 0 := ⟨rfl, rfl⟩

theorem occursAt_endMark_encodeFrame (p : Bytes) : occursAt (encodeFrame p) endMark (p.length + 2) := by
  have hfront : (delimBytes startMark ++ p).length = p.length + 2 := by simp [delimBytes]
  rw [encodeFrame_eq, ← hfront]
  constructor
  · rw [List.getElem?_append_right le_rfl, Nat.sub_self]
    rfl
  · rw [List.getElem?_append_right (Nat.le_add_right _ _), Nat.add_sub_cancel_left]
    rfl

/-- The payload is a slice of the frame, so its delimiters are those of the frame that lie between the frame's own. -/
theorem occursAt_payload_iff (p : Bytes) (d : Delimiter) (i : Nat) :
    occursAt p d i ↔ i + 2 ≤ p.length ∧ occursAt (encodeFrame p) d (2 + i) := by
  have hslice : slice (encodeFrame p) 2 (p.length + 2) = p := by
    rw [← show (encodeFrame p).length - 4 = p.length + 2 by rw [encodeFrame_length]; omega]
    exact stripPayload_encodeFrame p
  have h := occursAt_slice (encodeFrame p) d 2 (p.length + 2) i
  rw [hslice] at h
  exact h.trans (and_congr_left' (by omega))

theorem find_startMark_encodeFrame (p : Bytes) : find (encodeFrame p) startMark 0 = some 0 :=
  (find_eq_some_iff _ _ _ _).2 ⟨le_rfl, occursAt_startMark_encodeFrame p,
    fun _ _ hlt => absurd hlt (Nat.not_lt_zero _)⟩

/-- The search stops at the frame's own `END` exactly when the payload holds none: an earlier `END` cannot overlap the
frame's own, so it lies in the payload. -/
theorem find_endMark_encodeFrame_iff (p : Bytes) :
    find (encodeFrame p) endMark 2 = some (p.length + 2) ↔ ∀ i, ¬ occursAt p endMark i := by
  rw [find_eq_some_iff, forall_congr' fun i => not_congr (occursAt_payload_iff p endMark i)]
  constructor
  · rintro ⟨-, -, hmin⟩ i ⟨hi, hocc⟩
    exact hmin (2 + i) (Nat.le_add_right _ _) (by omega) hocc
  · intro hfree
    refine ⟨Nat.le_add_left _ _, occursAt_endMark_encodeFrame p, fun j hj hlt hocc => ?_⟩
    obtain ⟨i, rfl⟩ := Nat.exists_eq_add_of_le hj
    have hapart := (delimitersNeverOverlap (encodeFrame p) (p.length + 2) (2 + i)).2.2
      (occursAt_endMark_encodeFrame p) hocc
    exact hfree i ⟨by omega, hocc⟩

/-- Settles O9: the frame by its parts, and the strip as a left inverse of `ENCODE`. -/
theorem encodedFrameFacts : Obligations.EncodedFrameFacts := by
  refine ⟨fun p => ?_, encodeFrame_injective⟩
  obtain ⟨hstart0, hstart1⟩ := occursAt_startMark_encodeFrame p
  obtain ⟨hend0, hend1⟩ := occursAt_endMark_encodeFrame p
  refine ⟨encodeFrame_length p, hstart0, hstart1, fun i hi => encodeFrame_getElem?_payload hi, hend0, hend1, ?_,
    find_startMark_encodeFrame p, find_endMark_encodeFrame_iff p⟩
  rw [encodeFrame_take_body, encodeFrame, receivedCrc_append_crcField]

end Sys2Proof.Machine
end

section
/-! SUPPORT. `VERIFY` (41_framecodec.md R91): what it answers, that it accepts a CRC written by the block (44_laws.md
section 1), and how short a candidate packet that it accepts can be (42_reassembler.md section 3). -/

namespace Sys2Proof.Machine

open Sys2Proof.Safety

/-! ### The operation (R91) -/

/-- What `VERIFY` answers, from the outcome of the check. -/
theorem exec_verify_of_eq {packet : Bytes} {ok : Bool} (h : verifyPacket packet = ok) (s : State) :
    exec (.verify packet) s = .next { s with outbox := s.outbox ++ [.verdict ok] } := h ▸ exec_verify packet s

theorem verifyPacket_short {packet : Bytes} (h : packet.length < 2) : verifyPacket packet = false := if_pos h

/-- Settles O12: the check below two bytes and on a packet with its last two bytes taken apart; the rule's packets by
evaluation. -/
theorem verifyComparesTrailingCrc : Obligations.VerifyComparesTrailingCrc :=
  ⟨fun _ s h => exec_verify_of_eq (verifyPacket_short h) s,
    fun d h l => exec_verify_of_eq (verifyPacket_append_pair d h l),
    exec_verify_of_eq (by decide), exec_verify_of_eq (by decide), exec_verify_of_eq (by decide),
    exec_verify_of_eq (by decide +kernel), exec_verify_of_eq (by decide +kernel)⟩

theorem verifyPacket_append_crcField (d : Bytes) : verifyPacket (d ++ crcField (crc16 d)) = true :=
  (verifyPacket_eq_true_iff _).2 ⟨d, rfl⟩

theorem verifyPacket_encodeFrame (p : Bytes) : verifyPacket (encodeFrame p) = true :=
  verifyPacket_append_crcField (frameBody p)

/-- Settles O13: a frame is its body with the body's CRC behind it. -/
theorem verifyAcceptsItsOwnCrc : Obligations.VerifyAcceptsItsOwnCrc :=
  ⟨fun d => exec_verify_of_eq (verifyPacket_append_crcField d),
    fun p => exec_verify_of_eq (verifyPacket_encodeFrame p)⟩

/-! ### The shortest candidate packets that pass -/

/-- The CRC of `START` alone, written behind it, makes no `END`. -/
theorem endFree_start_crcField :
    endFree (delimBytes startMark ++ crcField (crc16 (delimBytes startMark))) := by decide +kernel

/-- Nor does the CRC of `START` and one byte, whether with that byte or by itself: 256 cases. -/
theorem endFree_start_byte_crcField :
    ∀ y : Byte, endFree (delimBytes startMark ++ [y] ++ crcField (crc16 (delimBytes startMark ++ [y]))) := by
  decide +kernel

/-- A packet that passes `VERIFY`, begins with `START` and holds an `END` behind it has six bytes: with four or
five, the bytes its CRC covers are `START` and at most one more, and these and their CRC make no `END`. -/
theorem six_le_length_of_verifyPacket {p : Bytes} {m : Nat} (hstart : occursAt p startMark 0)
    (hend : find p endMark 2 = some m) (hv : verifyPacket p = true) : 6 ≤ p.length := by
  obtain ⟨hm, hlen⟩ := find_bounds hend
  have hfound : ¬ endFree p := by
    rw [Bool.not_eq_false, contains_eq_true_iff]
    exact ⟨m, ((find_eq_some_iff _ _ _ _).1 hend).2.1⟩
  obtain ⟨d, rfl⟩ := (verifyPacket_eq_true_iff p).1 hv
  obtain ⟨hfirst, hsecond⟩ := hstart
  have hcrc : (crcField (crc16 d)).length = 2 := rfl
  rw [List.length_append, hcrc] at hlen ⊢
  obtain ⟨a, b, t, rfl⟩ : ∃ a b t, d = a :: b :: t :=
    match d, (show 2 ≤ d.length by omega) with
    | a :: b :: t, _ => ⟨a, b, t, rfl⟩
  obtain rfl : a = startMark.first := Option.some.inj hfirst
  obtain rfl : b = startMark.second := Option.some.inj hsecond
  rcases t with _ | ⟨y, _ | ⟨z, t⟩⟩
  · exact (hfound endFree_start_crcField).elim
  · exact (hfound (endFree_start_byte_crcField y)).elim
  · simp

/-! ### One candidate packet that passes -/

/-- An extraction whose packet passes the check. -/
theorem extractNext_good {s : State} {i j : Nat} (hi : find s.rxbuf startMark 0 = some i)
    (hj : find s.rxbuf endMark (i + 2) = some j) (hv : verifyPacket (slice s.rxbuf i (j + 4)) = true) :
    extractNext s = some (afterCut s (slice s.rxbuf i (j + 4)) (j + 4),
      .payloadReceived (stripPayload (slice s.rxbuf i (j + 4)))) := by
  have hpacket : memRead s i (j - i + (lenEnd + lenCrc)) = slice s.rxbuf i (j + 4) :=
    memRead_packet s ((Nat.le_add_right i 2).trans (find_bounds hj).1)
  refine extractNext_eq_some_iff.2 ⟨i, j, hi, hj, ?_⟩
  rw [extractAt, hpacket, checkAndEmit_good hv]
  rfl

theorem exec_feed (c : Bytes) (s : State) :
    exec (.feed c) s = .next (giveBack (feed s c).1 (.events (feed s c).2)) := execFeed_eq c s

/-- A `FEED` that completes one packet, which passes the check and leaves a quiescent rest. -/
theorem feed_one_good {s : State} {c : Bytes} {i j : Nat} (hi : find (s.rxbuf ++ c) startMark 0 = some i)
    (hj : find (s.rxbuf ++ c) endMark (i + 2) = some j) (hv : verifyPacket (slice (s.rxbuf ++ c) i (j + 4)) = true)
    (hrest : quiescent ((s.rxbuf ++ c).drop (j + 4)) = true) :
    feed s c = (afterCut (bufAppend s c) (slice (s.rxbuf ++ c) i (j + 4)) (j + 4),
      [.payloadReceived (stripPayload (slice (s.rxbuf ++ c) i (j + 4)))]) := by
  rw [feed_eq_drain, drain_more (extractNext_good (s := bufAppend s c) hi hj hv),
    drain_stop (extractNext_eq_none_iff.2 hrest)]
  rfl

/-- Settles O24: a candidate packet begins with `START` and holds an `END` behind it, so the bound applies; and the CRC
of `AA BB 10 32` is `CCDD`, so the frame cut short at its `END` passes. -/
theorem verifiedCandidateHasSixBytes : Obligations.VerifiedCandidateHasSixBytes := by
  refine ⟨fun b i j hi hj hv => ?_, fun s hs => ?_⟩
  · obtain ⟨-, -, -, -, -, -, hfirst, hsecond, hend⟩ := candidatePacketShape b i j hi hj
    exact six_le_length_of_verifyPacket ⟨hfirst, hsecond⟩ hend hv
  · have hfeed := feed_one_good (s := s) (c := [0xAA, 0xBB, 0x10, 0x32, 0xCC, 0xDD]) (i := 0) (j := 4)
      (by rw [hs]; decide) (by rw [hs]; decide) (by rw [hs]; decide +kernel) (by rw [hs]; decide)
    rw [exec_feed, hfeed, hs]
    simp [afterCut, giveBack, bufAppend, slice, stripPayload, lenStart, lenEnd, lenCrc, hs]

end Sys2Proof.Machine
end

section
/-! SUPPORT. `FEED` and the relation its pseudocode describes (42_reassembler.md R100): one extraction, said once for both
outcomes of the check; the relation `FeedRun` as a list of such extractions, which has one result, the one the loop gives;
and what the events of a `FEED` account for. -/

namespace Sys2Proof.Machine

open Sys2Proof.Safety

/-! ### Quiescent buffers (R103) -/

theorem quiescent_eq_true_iff (b : Bytes) : quiescent b = true ↔
    find b startMark 0 = none ∨ ∃ i, find b startMark 0 = some i ∧ find b endMark (i + 2) = none := by
  unfold quiescent
  cases find b startMark 0 with
  | none => simp
  | some i => simp [lenStart]

/-- No `START` stands before an `END`; it is enough to look behind the first `START`. -/
theorem quiescent_iff_occursAt (b : Bytes) :
    quiescent b = true ↔ ∀ i j, occursAt b startMark i → occursAt b endMark j → j < i + 2 := by
  rw [quiescent_eq_true_iff]
  constructor
  · rintro (hnone | ⟨i₀, hfirst, hnone⟩) i j hi hj
    · exact absurd hi ((find_eq_none_iff _ _ _).1 hnone i (Nat.zero_le i))
    · have hle : i₀ ≤ i := by
        by_contra hlt
        exact ((find_eq_some_iff _ _ _ _).1 hfirst).2.2 i (Nat.zero_le i) (by omega) hi
      by_contra hge
      exact (find_eq_none_iff _ _ _).1 hnone j (by omega) hj
  · intro h
    cases hfind : find b startMark 0 with
    | none => exact .inl rfl
    | some i =>
      refine .inr ⟨i, rfl, (find_eq_none_iff _ _ _).2 fun j hle hj => ?_⟩
      exact absurd (h i j ((find_eq_some_iff _ _ _ _).1 hfind).2.1 hj) (by omega)

/-! ### One extraction -/

/-- An extraction whose packet fails the check. -/
theorem extractNext_bad {s : State} {i j : Nat} (hi : find s.rxbuf startMark 0 = some i)
    (hj : find s.rxbuf endMark (i + 2) = some j) (hv : verifyPacket (slice s.rxbuf i (j + 4)) = false) :
    extractNext s = some ({ afterCut s (slice s.rxbuf i (j + 4)) (j + 4) with
        lostPackets := s.lostPackets + 1, tsDraws := s.tsDraws + 1 },
      .corruptPacket (slice s.rxbuf i (j + 4)) (Config.timestampDraw s.tsDraws)) := by
  have hpacket : memRead s i (j - i + (lenEnd + lenCrc)) = slice s.rxbuf i (j + 4) :=
    memRead_packet s ((Nat.le_add_right i 2).trans (find_bounds hj).1)
  refine extractNext_eq_some_iff.2 ⟨i, j, hi, hj, ?_⟩
  rw [extractAt, hpacket, checkAndEmit_bad hv]
  rfl

/-- A packet that passes has at least six bytes, so its payload is six bytes shorter. -/
theorem packetLength_payloadReceived {b : Bytes} {i j : Nat} (hi : find b startMark 0 = some i)
    (hj : find b endMark (i + 2) = some j) (hv : verifyPacket (slice b i (j + 4)) = true) :
    packetLength (.payloadReceived (stripPayload (slice b i (j + 4)))) = (slice b i (j + 4)).length := by
  have hsix := verifiedCandidateHasSixBytes.1 b i j hi hj hv
  rw [packetLength, stripPayload_length]
  omega

/-- What an extraction leaves in the buffer, and the length its event reports. -/
theorem extractNext_at {s t : State} {e : FrameEvent} {i j : Nat} (hi : find s.rxbuf startMark 0 = some i)
    (hj : find s.rxbuf endMark (i + 2) = some j) (h : extractNext s = some (t, e)) :
    t.rxbuf = s.rxbuf.drop (j + 4) ∧ packetLength e = (slice s.rxbuf i (j + 4)).length := by
  cases hv : verifyPacket (slice s.rxbuf i (j + 4)) with
  | true =>
    cases h.symm.trans (extractNext_good hi hj hv)
    exact ⟨rfl, packetLength_payloadReceived hi hj hv⟩
  | false =>
    cases h.symm.trans (extractNext_bad hi hj hv)
    exact ⟨rfl, rfl⟩

/-! ### Extractions as the pseudocode lists them -/

/-- One pass of the pseudocode's loop that performs the extraction `x` and leaves `t`. -/
def Extracts (s : State) (x : Extraction) (t : State) : Prop :=
  ∃ stop, find s.rxbuf startMark 0 = some x.junk ∧ find s.rxbuf endMark (x.junk + 2) = some stop ∧
    x.complete = decide (stop + 4 ≤ s.rxbuf.length) ∧ extractNext s = some (t, x.event)

theorem Extracts.extractNext_eq {s t : State} {x : Extraction} (h : Extracts s x t) :
    extractNext s = some (t, x.event) := by
  obtain ⟨-, -, -, -, hx⟩ := h
  exact hx

theorem exists_extracts {s t : State} {e : FrameEvent} (h : extractNext s = some (t, e)) :
    ∃ x, x.event = e ∧ Extracts s x t := by
  obtain ⟨i, j, -, hi, hj, -, -⟩ := extractNext_cases h
  exact ⟨{ event := e, junk := i, complete := decide (j + 4 ≤ s.rxbuf.length) }, rfl, j, hi, hj, rfl, h⟩

theorem Extracts.unique {s t t' : State} {x y : Extraction} (h : Extracts s x t) (h' : Extracts s y t') :
    y = x ∧ t' = t := by
  obtain ⟨j, hi, hj, hcomplete, hx⟩ := h
  obtain ⟨j', hi', hj', hcomplete', hx'⟩ := h'
  obtain ⟨ht, hevent⟩ := Prod.mk.inj (Option.some.inj (hx'.symm.trans hx))
  have hjunk : y.junk = x.junk := Option.some.inj (hi'.symm.trans hi)
  rw [hjunk] at hj'
  obtain rfl : j' = j := Option.some.inj (hj'.symm.trans hj)
  cases x
  cases y
  simp_all

/-- The bytes an extraction takes from the front of the buffer are its junk and its packet. -/
theorem Extracts.gone {s t : State} {x : Extraction} (h : Extracts s x t) :
    ∃ gone, s.rxbuf = gone ++ t.rxbuf ∧ gone.length = x.junk + packetLength x.event := by
  obtain ⟨j, hi, hj, -, hx⟩ := h
  obtain ⟨hrest, hpacket⟩ := extractNext_at hi hj hx
  have hbounds := find_bounds hj
  refine ⟨s.rxbuf.take (j + 4), by rw [hrest, List.take_append_drop], ?_⟩
  rw [hpacket, slice_length, List.length_take]
  omega

/-! ### The relation of the pseudocode (R100) -/

/-- Both searches succeed, so the loop condition of R102 holds. -/
theorem contains_of_finds {b : Bytes} {i j : Nat} (hi : find b startMark 0 = some i)
    (hj : find b endMark (i + 2) = some j) : contains b startMark = true ∧ contains b endMark = true :=
  ⟨(contains_eq_true_iff _ _).2 ⟨i, ((find_eq_some_iff _ _ _ _).1 hi).2.1⟩,
    (contains_eq_true_iff _ _).2 ⟨j, ((find_eq_some_iff _ _ _ _).1 hj).2.1⟩⟩

/-- The pseudocode's loop stops exactly where a pass extracts nothing. -/
theorem feedRun_nil_iff {s u : State} : FeedRun s [] u ↔ extractNext s = none ∧ u = s := by
  rw [extractNext_eq_none_iff, quiescent_eq_true_iff]
  constructor
  · rintro (⟨_, hc⟩ | ⟨_, i, -, hi, hj⟩)
    · refine ⟨?_, rfl⟩
      cases hi : find s.rxbuf startMark 0 with
      | none => exact .inl rfl
      | some i =>
        refine .inr ⟨i, rfl, ?_⟩
        cases hj : find s.rxbuf endMark (i + 2) with
        | none => rfl
        | some j => exact absurd (contains_of_finds hi hj) hc
    · exact ⟨.inr ⟨i, hi, hj⟩, rfl⟩
  · rintro ⟨hq, rfl⟩
    by_cases hc : contains u.rxbuf startMark = true ∧ contains u.rxbuf endMark = true
    · obtain hnone | ⟨i, hi, hj⟩ := hq
      · simp [contains, hnone] at hc
      · exact .noEnd u i hc hi hj
    · exact .noDelimiters u hc

/-- The pseudocode's loop goes on with an extraction and what it leaves. -/
theorem feedRun_cons_iff {s u : State} {x : Extraction} {xs : List Extraction} :
    FeedRun s (x :: xs) u ↔ ∃ t, Extracts s x t ∧ FeedRun t xs u := by
  constructor
  · intro h
    cases h with
    | good _ _ i j packet _ _ hi hj hp hv hrest =>
      subst hp
      exact ⟨_, ⟨j, hi, hj, rfl, extractNext_good hi hj hv⟩, hrest⟩
    | bad _ _ i j packet _ _ hi hj hp hv hrest =>
      subst hp
      exact ⟨_, ⟨j, hi, hj, rfl, extractNext_bad hi hj hv⟩, hrest⟩
  · rintro ⟨t, ⟨j, hi, hj, hcomplete, hx⟩, hrest⟩
    obtain ⟨event, i, complete⟩ := x
    dsimp only at hi hj hcomplete hx
    subst hcomplete
    cases hv : verifyPacket (slice s.rxbuf i (j + 4)) with
    | true =>
      cases hx.symm.trans (extractNext_good hi hj hv)
      exact .good s u i j _ xs (contains_of_finds hi hj) hi hj rfl hv hrest
    | false =>
      cases hx.symm.trans (extractNext_bad hi hj hv)
      exact .bad s u i j _ xs (contains_of_finds hi hj) hi hj rfl hv hrest

/-- The relation has one result. -/
theorem feedRun_unique {s u v : State} {xs ys : List Extraction} (h : FeedRun s xs u) (h' : FeedRun s ys v) :
    ys = xs ∧ v = u := by
  induction xs generalizing s ys with
  | nil =>
    obtain ⟨hnone, rfl⟩ := feedRun_nil_iff.1 h
    cases ys with
    | nil => exact ⟨rfl, (feedRun_nil_iff.1 h').2⟩
    | cons y ys =>
      obtain ⟨t, hy, -⟩ := feedRun_cons_iff.1 h'
      simp [hy.extractNext_eq] at hnone
  | cons x xs ih =>
    obtain ⟨t, hx, hrest⟩ := feedRun_cons_iff.1 h
    cases ys with
    | nil => simp [feedRun_nil_iff, hx.extractNext_eq] at h'
    | cons y ys =>
      obtain ⟨t', hy, hrest'⟩ := feedRun_cons_iff.1 h'
      obtain ⟨rfl, rfl⟩ := hx.unique hy
      obtain ⟨rfl, rfl⟩ := ih hrest hrest'
      exact ⟨rfl, rfl⟩

/-- The loop's result is the relation's. -/
theorem exists_feedRun_drain (s : State) : ∃ xs, FeedRun s xs (drain s).1 ∧ eventsOf xs = (drain s).2 := by
  refine drain_induction (motive := fun s t es => ∃ xs, FeedRun s xs t ∧ eventsOf xs = es) ?_ ?_ s
  · exact fun s hnone => ⟨[], feedRun_nil_iff.2 ⟨hnone, rfl⟩, rfl⟩
  · rintro s t e hx ⟨xs, hrun, hes⟩
    obtain ⟨x, rfl, hextracts⟩ := exists_extracts hx
    exact ⟨x :: xs, feedRun_cons_iff.2 ⟨t, hextracts, hrun⟩, by rw [← hes]; rfl⟩

theorem drain_eq_of_feedRun {s u : State} {xs : List Extraction} (h : FeedRun s xs u) : drain s = (u, eventsOf xs) := by
  obtain ⟨ys, hrun, hes⟩ := exists_feedRun_drain s
  obtain ⟨rfl, hu⟩ := feedRun_unique h hrun
  exact Prod.ext hu hes.symm

/-- The bytes a run takes from the front of the buffer are its junk and its packets. -/
theorem feedRun_gone {s u : State} {xs : List Extraction} (h : FeedRun s xs u) :
    ∃ gone, s.rxbuf = gone ++ u.rxbuf ∧ gone.length = junkOf xs + ((eventsOf xs).map packetLength).sum := by
  induction xs generalizing s with
  | nil =>
    obtain ⟨-, rfl⟩ := feedRun_nil_iff.1 h
    exact ⟨[], rfl, rfl⟩
  | cons x xs ih =>
    obtain ⟨t, hx, hrest⟩ := feedRun_cons_iff.1 h
    obtain ⟨front, hs, hfront⟩ := hx.gone
    obtain ⟨back, ht, hback⟩ := ih hrest
    refine ⟨front ++ back, by rw [hs, ht, List.append_assoc], ?_⟩
    rw [List.length_append, hfront, hback]
    simp only [junkOf, eventsOf, List.map_cons, List.sum_cons]
    omega

/-! ### What the events of a `FEED` account for (R109, R110) -/

/-- From `s` to `t` the receive counters and the count of draws grow by what the events `es` say; the sent counters and
the host's side stay. -/
structure FeedAccount (s t : State) (es : List FrameEvent) : Prop where
  receivedBytes : t.totalReceivedBytes = s.totalReceivedBytes + (es.map packetLength).sum
  receivedPackets : t.totalPacketsReceived = s.totalPacketsReceived + es.length
  lost : t.lostPackets = s.lostPackets + es.countP isCorrupt
  draws : t.tsDraws = s.tsDraws + es.countP isCorrupt
  sentBytes : t.totalSentBytes = s.totalSentBytes
  sentPackets : t.totalPacketsSent = s.totalPacketsSent
  inbox : t.inbox = s.inbox
  outbox : t.outbox = s.outbox

theorem FeedAccount.refl (s : State) : FeedAccount s s [] := by constructor <;> rfl

theorem FeedAccount.append {s t u : State} {es fs : List FrameEvent} (h : FeedAccount s t es) (h' : FeedAccount t u fs) :
    FeedAccount s u (es ++ fs) where
  receivedBytes := by rw [h'.receivedBytes, h.receivedBytes, List.map_append, List.sum_append, Nat.add_assoc]
  receivedPackets := by rw [h'.receivedPackets, h.receivedPackets, List.length_append, Nat.add_assoc]
  lost := by rw [h'.lost, h.lost, List.countP_append, Nat.add_assoc]
  draws := by rw [h'.draws, h.draws, List.countP_append, Nat.add_assoc]
  sentBytes := h'.sentBytes.trans h.sentBytes
  sentPackets := h'.sentPackets.trans h.sentPackets
  inbox := h'.inbox.trans h.inbox
  outbox := h'.outbox.trans h.outbox

theorem FeedAccount.of_extractNext {s t : State} {e : FrameEvent} (h : extractNext s = some (t, e)) :
    FeedAccount s t [e] := by
  obtain ⟨i, j, packet, hi, hj, rfl, ⟨hv, rfl, rfl⟩ | ⟨hv, rfl, rfl⟩⟩ := extractNext_cases h
  · have hlen := packetLength_payloadReceived hi hj hv
    exact { receivedBytes := congrArg (s.totalReceivedBytes + ·) hlen.symm, receivedPackets := rfl, lost := rfl,
            draws := rfl, sentBytes := rfl, sentPackets := rfl, inbox := rfl, outbox := rfl }
  · constructor <;> rfl

theorem drain_account (s : State) : FeedAccount s (drain s).1 (drain s).2 :=
  drain_induction (fun s _ => FeedAccount.refl s) (fun _ _ _ hx => (FeedAccount.of_extractNext hx).append) s

/-- What `FEED` does to the counters, by the events it returns. -/
theorem feed_account (s : State) (c : Bytes) : FeedAccount s (feed s c).1 (feed s c).2 :=
  have h := drain_account (bufAppend s c)
  { h with }

/-! ### The operation -/

/-- What `FEED` answers, from what the loop makes of the appended buffer. -/
theorem exec_feed_of_drain {s t : State} {c : Bytes} {es : List FrameEvent} (h : drain (bufAppend s c) = (t, es)) :
    exec (.feed c) s = .next { t with outbox := s.outbox ++ [.events es] } := by
  have hout := (drain_account (bufAppend s c)).outbox
  rw [h] at hout
  rw [exec_feed, feed_eq_drain, h, giveBack, hout]
  rfl

theorem exec_feed_eq (s : State) (c : Bytes) : exec (.feed c) s =
    .next { (drain (bufAppend s c)).1 with outbox := s.outbox ++ [.events (drain (bufAppend s c)).2] } :=
  exec_feed_of_drain rfl

theorem bufAppend_nil (s : State) : bufAppend s [] = s := by
  rw [bufAppend, List.append_nil]

/-- A `FEED` that leaves the buffer quiescent as it stands keeps every byte. -/
theorem exec_feed_quiescent {s : State} {c : Bytes} (h : quiescent (s.rxbuf ++ c) = true) :
    exec (.feed c) s = .next { s with rxbuf := s.rxbuf ++ c, outbox := s.outbox ++ [.events []] } :=
  exec_feed_of_drain (drain_stop (extractNext_eq_none_iff.2 h))

/-- Settles O20: the hypothesis is that the appended buffer is quiescent. -/
theorem feedWaitsForAnEnd : Obligations.FeedWaitsForAnEnd :=
  fun _ _ h => exec_feed_quiescent ((quiescent_eq_true_iff _).2 h)

/-- Settles O26: the appended buffer is the quiescent one itself. -/
theorem feedOfNothingChangesNothing : Obligations.FeedOfNothingChangesNothing := by
  intro s h
  have hfeed := exec_feed_quiescent (s := s) (c := []) (by rwa [List.append_nil])
  rwa [List.append_nil] at hfeed

/-- After a first extraction `FEED` does what a `FEED` of nothing does from there, with its event in front. -/
theorem exec_feed_first {s t : State} {c : Bytes} {e : FrameEvent} (h : extractNext (bufAppend s c) = some (t, e)) :
    ∃ es u, exec (.feed []) t = .next u ∧ u.outbox = s.outbox ++ [.events es] ∧
      exec (.feed c) s = .next { u with outbox := s.outbox ++ [.events (e :: es)] } := by
  have hout : t.outbox = s.outbox := (FeedAccount.of_extractNext h).outbox
  refine ⟨(drain t).2, _, exec_feed_eq t [], ?_, ?_⟩
  · rw [bufAppend_nil, hout]
  · rw [exec_feed_of_drain (drain_more h), bufAppend_nil]

/-- Settles O21: the first extraction by the outcome of the check, and then the rest. -/
theorem feedExtractsTheFirstPacket : Obligations.FeedExtractsTheFirstPacket := by
  rintro c s i j _ hi hj rfl
  exact ⟨fun hv => exec_feed_first (extractNext_good (s := bufAppend s c) hi hj hv),
    fun hv => exec_feed_first (extractNext_bad (s := bufAppend s c) hi hj hv)⟩

/-! ### What `FEED` leaves in the buffer -/

theorem quiescent_drain (s : State) : quiescent (drain s).1.rxbuf = true :=
  drain_induction (motive := fun _ t _ => quiescent t.rxbuf = true) (fun _ => extractNext_eq_none_iff.1)
    (fun _ _ _ _ h => h) s

/-- A run of the pseudocode tells what `FEED` answers. -/
theorem exec_feed_of_feedRun {s t u : State} {c : Bytes} {xs : List Extraction} (hrun : FeedRun (bufAppend s c) xs u)
    (h : exec (.feed c) s = .next t) : t = { u with outbox := s.outbox ++ [.events (eventsOf xs)] } :=
  Host.Outcome.next.inj (h.symm.trans (exec_feed_of_drain (drain_eq_of_feedRun hrun)))

/-- Settles O22: the loop ends quiescent, and what a run takes away are the first bytes. -/
theorem feedLeavesAQuiescentBuffer : Obligations.FeedLeavesAQuiescentBuffer := by
  intro c s t h
  obtain ⟨xs, hrun, -⟩ := exists_feedRun_drain (bufAppend s c)
  have hdrop : ∀ ys v, FeedRun (bufAppend s c) ys v →
      t.rxbuf = (s.rxbuf ++ c).drop (junkOf ys + ((eventsOf ys).map packetLength).sum) := by
    intro ys v hrun'
    obtain ⟨gone, hsplit, hlen⟩ := feedRun_gone hrun'
    rw [exec_feed_of_feedRun hrun' h, ← hlen, ← bufAppend_rxbuf, hsplit, List.drop_left]
  refine ⟨?_, hdrop xs _ hrun ▸ List.drop_suffix _ _, hdrop⟩
  rw [exec_feed_of_feedRun hrun h]
  exact quiescent_drain _

/-- Settles O32: what a run takes from the buffer is its junk and its packets, and the packets are counted. -/
theorem feedConservesBytes : Obligations.FeedConservesBytes := by
  intro c s t xs u hrun h
  obtain ⟨gone, hsplit, hlen⟩ := feedRun_gone hrun
  have hbytes := (drain_account (bufAppend s c)).receivedBytes
  have htotal := congrArg List.length hsplit
  rw [bufAppend, drain_eq_of_feedRun hrun] at hbytes
  rw [exec_feed_of_feedRun hrun h]
  simp only [List.length_append] at htotal hbytes ⊢
  omega

/-- An extraction takes four bytes at least: its `START` and its `END`. -/
theorem extractNext_takes_four {s t : State} {e : FrameEvent} (h : extractNext s = some (t, e)) :
    t.rxbuf.length + 4 ≤ s.rxbuf.length := by
  obtain ⟨i, j, -, hi, hj, -, -⟩ := extractNext_cases h
  have hbounds := find_bounds hj
  rw [(extractNext_at hi hj h).1, List.length_drop]
  omega

theorem four_mul_events_le (s : State) : 4 * (drain s).2.length ≤ s.rxbuf.length := by
  refine drain_induction (motive := fun s _ es => 4 * es.length ≤ s.rxbuf.length) (fun _ _ => Nat.zero_le _) ?_ s
  intro s t e hx ih
  have hfour := extractNext_takes_four hx
  rw [List.length_cons]
  omega

/-- Settles O25: each event goes with an extraction of four bytes at least. -/
theorem feedExtractionsAreBounded : Obligations.FeedExtractionsAreBounded := by
  intro c s t h
  rw [exec_feed_eq] at h
  cases h
  exact ⟨_, rfl, by simpa using four_mul_events_le (bufAppend s c)⟩

/-! ### Bytes that come later -/

theorem occursAt_append_left {b c : Bytes} {d : Delimiter} {j : Nat} (h : j + 2 ≤ b.length) :
    occursAt (b ++ c) d j ↔ occursAt b d j := by
  rw [occursAt, occursAt, List.getElem?_append_left (by omega), List.getElem?_append_left (by omega)]

/-- What is found is found too when more bytes follow. -/
theorem find_append_left {b : Bytes} {d : Delimiter} {start i : Nat} (h : find b d start = some i) (c : Bytes) :
    find (b ++ c) d start = some i := by
  have hbounds := find_bounds h
  obtain ⟨hle, hocc, hmin⟩ := (find_eq_some_iff _ _ _ _).1 h
  refine (find_eq_some_iff _ _ _ _).2 ⟨hle, (occursAt_append_left hbounds.2).2 hocc, fun j hj hlt hj' => ?_⟩
  exact hmin j hj hlt ((occursAt_append_left (by omega)).1 hj')

theorem slice_append_left {b : Bytes} {e : Nat} (h : e ≤ b.length) (c : Bytes) (a : Nat) :
    slice (b ++ c) a e = slice b a e := by
  rw [slice, slice, List.take_append_of_le_length h]

/-- A complete extraction is the same when more bytes follow, and they follow what it leaves. -/
theorem extractNext_bufAppend {s t : State} {x : Extraction} (h : Extracts s x t) (hcomplete : x.complete = true)
    (c : Bytes) : extractNext (bufAppend s c) = some (bufAppend t c, x.event) := by
  obtain ⟨j, hi, hj, hc, hx⟩ := h
  have hle : j + 4 ≤ s.rxbuf.length := of_decide_eq_true (hc.symm.trans hcomplete)
  have hi' : find (bufAppend s c).rxbuf startMark 0 = some x.junk := find_append_left hi c
  have hj' : find (bufAppend s c).rxbuf endMark (x.junk + 2) = some j := find_append_left hj c
  have hpacket : slice (bufAppend s c).rxbuf x.junk (j + 4) = slice s.rxbuf x.junk (j + 4) := slice_append_left hle c _
  have hdrop : (s.rxbuf ++ c).drop (j + 4) = s.rxbuf.drop (j + 4) ++ c := List.drop_append_of_le_length hle
  cases hv : verifyPacket (slice s.rxbuf x.junk (j + 4)) with
  | true =>
    obtain ⟨rfl, hevent⟩ := Prod.mk.inj (Option.some.inj (hx.symm.trans (extractNext_good hi hj hv)))
    rw [hevent, extractNext_good hi' hj' (by rwa [hpacket]), hpacket]
    simp [afterCut, bufAppend, hdrop]
  | false =>
    obtain ⟨rfl, hevent⟩ := Prod.mk.inj (Option.some.inj (hx.symm.trans (extractNext_bad hi hj hv)))
    rw [hevent, extractNext_bad hi' hj' (by rwa [hpacket]), hpacket]
    simp [afterCut, bufAppend, hdrop]

/-- A loop whose extractions are all complete is the beginning of the loop with more bytes behind. -/
theorem drain_bufAppend {s u : State} {xs : List Extraction} (hrun : FeedRun s xs u)
    (hcomplete : ∀ x ∈ xs, x.complete = true) (c : Bytes) :
    drain (bufAppend s c) = ((drain (bufAppend u c)).1, eventsOf xs ++ (drain (bufAppend u c)).2) := by
  induction xs generalizing s with
  | nil =>
    obtain ⟨-, rfl⟩ := feedRun_nil_iff.1 hrun
    rfl
  | cons x xs ih =>
    obtain ⟨t, hx, hrest⟩ := feedRun_cons_iff.1 hrun
    rw [drain_more (extractNext_bufAppend hx (hcomplete x List.mem_cons_self) c),
      ih hrest fun y hy => hcomplete y (List.mem_cons_of_mem x hy)]
    rfl

theorem bufAppend_append (s : State) (a b : Bytes) : bufAppend s (a ++ b) = bufAppend (bufAppend s a) b := by
  simp [bufAppend]

/-- The loop neither reads nor writes what was returned before. -/
theorem drain_with_outbox (s : State) (o : List Response) :
    drain { s with outbox := o } = ({ (drain s).1 with outbox := o }, (drain s).2) := by
  refine drain_induction (motive := fun s t es => drain { s with outbox := o } = ({ t with outbox := o }, es)) ?_ ?_ s
  · intro s hnone
    have hq : quiescent s.rxbuf = true := extractNext_eq_none_iff.1 hnone
    exact drain_stop (extractNext_eq_none_iff.2 hq)
  · intro s t e hx ih
    have hx' : extractNext { s with outbox := o } = some ({ t with outbox := o }, e) := by
      obtain ⟨i, j, _, hi, hj, rfl, ⟨hv, rfl, rfl⟩ | ⟨hv, rfl, rfl⟩⟩ := extractNext_cases hx
      · exact extractNext_good (s := { s with outbox := o }) hi hj hv
      · exact extractNext_bad (s := { s with outbox := o }) hi hj hv
    rw [drain_more hx', ih]

/-- Settles O33: the loop of the one `FEED` begins with the extractions of the first of the two, and what these leave is
the buffer that the second finds. -/
theorem chunkingIrrelevantWhenComplete : Obligations.ChunkingIrrelevantWhenComplete := by
  intro a b s xs u hrun hcomplete
  have hfirst := exec_feed_of_drain (drain_eq_of_feedRun hrun)
  have hsecond := exec_feed_of_drain (s := { u with outbox := s.outbox ++ [.events (eventsOf xs)] }) (c := b)
    (drain_with_outbox (bufAppend u b) _)
  have hboth : drain (bufAppend s (a ++ b)) = _ := (bufAppend_append s a b).symm ▸ drain_bufAppend hrun hcomplete b
  exact ⟨eventsOf xs, (drain (bufAppend u b)).2, _, _, hfirst, hsecond, rfl, by simp, (exec_feed_of_drain hboth :)⟩

/-! ### What `FEED` depends on -/

/-- Where the buffer and the draws to come are the same, an extraction gives the same event and leaves them the same. -/
theorem extractNext_congr {s s' t : State} {e : FrameEvent} (hbuf : s'.rxbuf = s.rxbuf) (hts : s'.tsDraws = s.tsDraws)
    (h : extractNext s = some (t, e)) :
    ∃ t', extractNext s' = some (t', e) ∧ t'.rxbuf = t.rxbuf ∧ t'.tsDraws = t.tsDraws := by
  obtain ⟨i, j, _, hi, hj, rfl, hcase⟩ := extractNext_cases h
  have hi' : find s'.rxbuf startMark 0 = some i := hbuf ▸ hi
  have hj' : find s'.rxbuf endMark (i + 2) = some j := hbuf ▸ hj
  obtain ⟨t', h'⟩ : ∃ t', extractNext s' = some (t', e) := by
    rw [← hbuf, ← hts] at hcase
    obtain ⟨hv, rfl, -⟩ | ⟨hv, rfl, -⟩ := hcase
    · exact ⟨_, extractNext_good hi' hj' hv⟩
    · exact ⟨_, extractNext_bad hi' hj' hv⟩
  refine ⟨t', h', ?_, ?_⟩
  · rw [(extractNext_at hi' hj' h').1, (extractNext_at hi hj h).1, hbuf]
  · rw [(FeedAccount.of_extractNext h').draws, (FeedAccount.of_extractNext h).draws, hts]

theorem drain_congr {s s' : State} (hbuf : s'.rxbuf = s.rxbuf) (hts : s'.tsDraws = s.tsDraws) :
    (drain s').2 = (drain s).2 ∧ (drain s').1.rxbuf = (drain s).1.rxbuf := by
  refine drain_induction (motive := fun s t es => ∀ s' : State, s'.rxbuf = s.rxbuf → s'.tsDraws = s.tsDraws →
    (drain s').2 = es ∧ (drain s').1.rxbuf = t.rxbuf) ?_ ?_ s s' hbuf hts
  · intro s hnone s' hbuf _
    rw [extractNext_eq_none_iff, ← hbuf, ← extractNext_eq_none_iff] at hnone
    rw [drain_stop hnone]
    exact ⟨rfl, hbuf⟩
  · intro s t e hx ih s' hbuf hts
    obtain ⟨t', hx', hbuf', hts'⟩ := extractNext_congr hbuf hts hx
    obtain ⟨hes, hrest⟩ := ih t' hbuf' hts'
    rw [drain_more hx']
    exact ⟨congrArg (e :: ·) hes, hrest⟩

/-- Settles O36: the events and the new buffer are the same, and the events tell the increments. -/
theorem feedDependsOnlyOnTheBuffer : Obligations.FeedDependsOnlyOnTheBuffer := by
  intro c s s' t t' hbuf hts h h'
  obtain ⟨hes, hrest⟩ := drain_congr (s := bufAppend s c) (s' := bufAppend s' c) (by simp [hbuf]) (by simp [hts])
  have hacc : FeedAccount s (drain (bufAppend s c)).1 (drain (bufAppend s c)).2 := feed_account s c
  have hacc' : FeedAccount s' (drain (bufAppend s' c)).1 (drain (bufAppend s' c)).2 := feed_account s' c
  rw [exec_feed_eq] at h h'
  rw [hes] at hacc' h'
  cases h
  cases h'
  dsimp only
  rw [hacc.draws, hacc.receivedBytes, hacc.receivedPackets, hacc.lost, hacc'.draws, hacc'.receivedBytes,
    hacc'.receivedPackets, hacc'.lost, hts]
  exact ⟨hrest.symm, rfl, ⟨_, rfl, rfl⟩, by omega, by omega, by omega⟩

end Sys2Proof.Machine
end

section
/-! SUPPORT. Frames in the receive buffer (42_reassembler.md section 3, 44_laws.md section 2): where a search goes on
behind junk, the first candidate packet of a buffer that holds the body of a frame, and the laws of delivery: junk in
front, bursts, fragments, frames cut short, a stale `START`, an `END` in the payload. -/

namespace Sys2Proof.Machine

open Sys2Proof.Safety

/-! ### Searching past the end of a sequence -/

/-- Where no delimiter can stand across the junction, an occurrence lies on one side of it. -/
theorem occursAt_append_iff {b v : Bytes} {d : Delimiter} (hjunction : v[0]? ≠ some d.second) (j : Nat) :
    occursAt (b ++ v) d j ↔ occursAt b d j ∨ ∃ m, j = b.length + m ∧ occursAt v d m := by
  constructor
  · intro h
    rcases lt_trichotomy (j + 1) b.length with hlt | heq | hgt
    · exact .inl ((occursAt_append_left (by omega)).1 h)
    · have hsecond := h.2
      rw [heq, List.getElem?_append_right le_rfl, Nat.sub_self] at hsecond
      exact absurd hsecond hjunction
    · obtain ⟨m, rfl⟩ := Nat.exists_eq_add_of_le (show b.length ≤ j by omega)
      exact .inr ⟨m, rfl, by rwa [← occursAt_drop, List.drop_left] at h⟩
  · rintro (h | ⟨m, rfl, h⟩)
    · exact (occursAt_append_left (lt_length_of_occursAt h)).2 h
    · rwa [← occursAt_drop, List.drop_left]

/-- A search that finds nothing in the front goes on behind it. -/
theorem find_append_right {b v : Bytes} {d : Delimiter} {start m : Nat} (hjunction : v[0]? ≠ some d.second)
    (hb : find b d start = none) (hc : find v d (start - b.length) = some m) :
    find (b ++ v) d start = some (b.length + m) := by
  obtain ⟨hle, hocc, hmin⟩ := (find_eq_some_iff _ _ _ _).1 hc
  refine (find_eq_some_iff _ _ _ _).2
    ⟨by omega, (occursAt_append_iff hjunction _).2 (.inr ⟨m, rfl, hocc⟩), fun j hj hlt hj' => ?_⟩
  obtain hfront | ⟨k, rfl, hk⟩ := (occursAt_append_iff hjunction _).1 hj'
  · exact (find_eq_none_iff _ _ _).1 hb j hj hfront
  · exact hmin k (by omega) (by omega) hk

theorem find_eq_none_of_length_le {b : Bytes} {d : Delimiter} {start : Nat} (h : b.length ≤ start) :
    find b d start = none :=
  (find_eq_none_iff _ _ _).2 fun _ hj hocc => absurd (lt_length_of_occursAt hocc) (by omega)

theorem find_eq_none_of_not_contains {b : Bytes} {d : Delimiter} (h : contains b d = false) : find b d 0 = none := by
  simpa [contains] using h

/-! ### The body of a frame -/

theorem frameBody_getElem?_zero_ne {x : Byte} (hx : startMark.first ≠ x) (p tail : Bytes) :
    (frameBody p ++ tail)[0]? ≠ some x := fun h => hx (Option.some.inj h)

theorem find_startMark_frameBody (p tail : Bytes) : find (frameBody p ++ tail) startMark 0 = some 0 :=
  (find_eq_some_iff _ _ _ _).2 ⟨le_rfl, ⟨rfl, rfl⟩, fun _ _ hlt => absurd hlt (Nat.not_lt_zero _)⟩

/-- The first `END` of the body is its last two bytes, from wherever within `START` the search begins. -/
theorem find_endMark_frameBody {p : Bytes} (hp : endFree p) (tail : Bytes) {k : Nat} (hk : k ≤ 2) :
    find (frameBody p ++ tail) endMark k = some (p.length + 2) := by
  have hfree : ∀ i, ¬ occursAt p endMark i := fun i hi =>
    absurd ((contains_eq_true_iff _ _).2 ⟨i, hi⟩) (by rw [hp]; decide)
  have hbody : find (frameBody p) endMark 2 = some (p.length + 2) := by
    have hslice : slice (encodeFrame p) 0 (p.length + 4) = frameBody p := encodeFrame_take_body p
    rw [← hslice]
    refine find_slice ?_ (by omega)
    simpa using (find_endMark_encodeFrame_iff p).2 hfree
  obtain ⟨-, hocc, hmin⟩ := (find_eq_some_iff _ _ _ _).1 (find_append_left hbody tail)
  refine (find_eq_some_iff _ _ _ _).2 ⟨by omega, hocc, fun j _ hlt hj => ?_⟩
  match j with
  | 0 => exact absurd (Option.some.inj hj.1) (by decide)
  | 1 => exact absurd (Option.some.inj hj.1) (by decide)
  | j + 2 => exact hmin (j + 2) (by omega) hlt hj

/-- Junk in front of a body hides no `START`. -/
theorem find_startMark_junk_frameBody {junk : Bytes} (hjunk : startFree junk) (p tail : Bytes) :
    find (junk ++ (frameBody p ++ tail)) startMark 0 = some junk.length := by
  refine find_append_right (m := 0) (frameBody_getElem?_zero_ne (by decide) p tail)
    (find_eq_none_of_not_contains hjunk) ?_
  rw [Nat.zero_sub]
  exact find_startMark_frameBody p tail

theorem find_endMark_junk_frameBody (junk : Bytes) {p : Bytes} (hp : endFree p) (tail : Bytes) :
    find (junk ++ (frameBody p ++ tail)) endMark (junk.length + 2) = some (junk.length + (p.length + 2)) :=
  find_append_right (frameBody_getElem?_zero_ne (by decide) p tail)
    (find_eq_none_of_length_le (Nat.le_add_right _ _))
    (find_endMark_frameBody hp tail (Nat.sub_le_of_le_add (Nat.add_comm _ 2).le))

/-! ### The first candidate packet of a buffer -/

/-- The first candidate packet of `b` is `packet`, and `rest` follows it (R104 to R108). -/
def FirstPacket (b packet rest : Bytes) : Prop :=
  ∃ i j, find b startMark 0 = some i ∧ find b endMark (i + 2) = some j ∧ slice b i (j + 4) = packet ∧
    b.drop (j + 4) = rest

/-- A body behind a place where a `START` is waiting or is about to begin ends the first packet, with the two bytes that
follow it. -/
theorem firstPacket_of_body {b p tail : Bytes} {i : Nat} (hp : endFree p)
    (hi : find (b ++ (frameBody p ++ tail)) startMark 0 = some i) (hle : i ≤ b.length)
    (hnone : find b endMark (i + 2) = none) :
    FirstPacket (b ++ (frameBody p ++ tail)) (b.drop i ++ (frameBody p ++ tail.take 2)) (tail.drop 2) := by
  have hj := find_append_right (frameBody_getElem?_zero_ne (by decide) p tail) hnone
    (find_endMark_frameBody hp tail (show i + 2 - b.length ≤ 2 by omega))
  have hstop : b.length + (p.length + 2) + 4 = b.length + ((frameBody p).length + 2) := by
    rw [frameBody_length]
    omega
  refine ⟨i, _, hi, hj, ?_, ?_⟩
  · rw [slice, hstop, List.take_length_add_append, List.take_length_add_append, List.drop_append_of_le_length hle]
  · rw [hstop, List.drop_length_add_append, List.drop_length_add_append]

theorem firstPacket_after_junk {junk p : Bytes} (hjunk : startFree junk) (hp : endFree p) (tail : Bytes) :
    FirstPacket (junk ++ (frameBody p ++ tail)) (frameBody p ++ tail.take 2) (tail.drop 2) := by
  simpa using firstPacket_of_body hp (find_startMark_junk_frameBody hjunk p tail) le_rfl
    (find_eq_none_of_length_le (Nat.le_add_right _ _))

theorem firstPacket_after_stale_start {b p : Bytes} {i : Nat} (hp : endFree p) (hi : find b startMark 0 = some i)
    (hnone : find b endMark (i + 2) = none) (tail : Bytes) :
    FirstPacket (b ++ (frameBody p ++ tail)) (b.drop i ++ (frameBody p ++ tail.take 2)) (tail.drop 2) :=
  firstPacket_of_body hp (find_append_left hi _) (by have := find_bounds hi; omega) hnone

theorem FirstPacket.extractNext_good {s : State} {packet rest : Bytes} (h : FirstPacket s.rxbuf packet rest)
    (hv : verifyPacket packet = true) :
    extractNext s = some ({ s with
        rxbuf := rest
        totalReceivedBytes := s.totalReceivedBytes + packet.length
        totalPacketsReceived := s.totalPacketsReceived + 1 }, .payloadReceived (stripPayload packet)) := by
  obtain ⟨i, j, hi, hj, rfl, rfl⟩ := h
  exact Machine.extractNext_good hi hj hv

theorem FirstPacket.extractNext_bad {s : State} {packet rest : Bytes} (h : FirstPacket s.rxbuf packet rest)
    (hv : verifyPacket packet = false) :
    extractNext s = some ({ s with
        rxbuf := rest
        totalReceivedBytes := s.totalReceivedBytes + packet.length
        totalPacketsReceived := s.totalPacketsReceived + 1
        lostPackets := s.lostPackets + 1
        tsDraws := s.tsDraws + 1 }, .corruptPacket packet (Config.timestampDraw s.tsDraws)) := by
  obtain ⟨i, j, hi, hj, rfl, rfl⟩ := h
  exact Machine.extractNext_bad hi hj hv

/-! ### A `FEED` whose one packet ends the buffer -/

theorem drain_of_empty {s : State} (h : s.rxbuf = []) : drain s = (s, []) :=
  drain_stop (extractNext_eq_none_iff.2 (by rw [h]; rfl))

/-- A `FEED` whose first extraction empties the buffer performs no other. -/
theorem exec_feed_last {s t : State} {c : Bytes} {e : FrameEvent} (h : extractNext (bufAppend s c) = some (t, e))
    (hempty : t.rxbuf = []) : exec (.feed c) s = .next { t with outbox := s.outbox ++ [.events [e]] } := by
  have hdrain := drain_more h
  rw [drain_of_empty hempty] at hdrain
  exact exec_feed_of_drain hdrain

theorem exec_feed_last_good {s : State} {c packet : Bytes} (h : FirstPacket (s.rxbuf ++ c) packet [])
    (hv : verifyPacket packet = true) :
    exec (.feed c) s = .next { s with
      rxbuf := []
      totalReceivedBytes := s.totalReceivedBytes + packet.length
      totalPacketsReceived := s.totalPacketsReceived + 1
      outbox := s.outbox ++ [.events [.payloadReceived (stripPayload packet)]] } :=
  exec_feed_last (FirstPacket.extractNext_good (s := bufAppend s c) h hv) rfl

theorem exec_feed_last_bad {s : State} {c packet : Bytes} (h : FirstPacket (s.rxbuf ++ c) packet [])
    (hv : verifyPacket packet = false) :
    exec (.feed c) s = .next { s with
      rxbuf := []
      totalReceivedBytes := s.totalReceivedBytes + packet.length
      totalPacketsReceived := s.totalPacketsReceived + 1
      lostPackets := s.lostPackets + 1
      tsDraws := s.tsDraws + 1
      outbox := s.outbox ++ [.events [.corruptPacket packet (Config.timestampDraw s.tsDraws)]] } :=
  exec_feed_last (FirstPacket.extractNext_bad (s := bufAppend s c) h hv) rfl

/-! ### Whole frames -/

/-- Junk and a frame: the frame is the first packet, whatever follows. -/
theorem firstPacket_encodeFrame {junk p : Bytes} (hjunk : startFree junk) (hp : endFree p) (more : Bytes) :
    FirstPacket (junk ++ (encodeFrame p ++ more)) (encodeFrame p) more := by
  have h := firstPacket_after_junk hjunk hp (crcField (crc16 (frameBody p)) ++ more)
  rwa [← List.append_assoc (frameBody p)] at h

/-- Junk and frames: all are delivered in order, and the junk stays only when there is no frame behind it. -/
theorem drain_frames {ps : List Bytes} (hps : ∀ p ∈ ps, endFree p) : ∀ {s : State} {junk : Bytes}, startFree junk →
    s.rxbuf = junk ++ (ps.map encodeFrame).flatten →
    drain s = ({ s with
      rxbuf := if ps = [] then junk else []
      totalReceivedBytes := s.totalReceivedBytes + (ps.map fun p => p.length + 6).sum
      totalPacketsReceived := s.totalPacketsReceived + ps.length }, ps.map FrameEvent.payloadReceived) := by
  induction ps with
  | nil =>
    intro s junk hjunk hs
    have hbuf : s.rxbuf = junk := by simpa using hs
    have hq : quiescent s.rxbuf = true :=
      (quiescent_eq_true_iff _).2 (.inl (find_eq_none_of_not_contains (hbuf ▸ hjunk)))
    rw [drain_stop (extractNext_eq_none_iff.2 hq)]
    simp [← hbuf]
  | cons p ps ih =>
    intro s junk hjunk hs
    have hfirst : FirstPacket s.rxbuf (encodeFrame p) (ps.map encodeFrame).flatten :=
      hs ▸ firstPacket_encodeFrame hjunk (hps p List.mem_cons_self) _
    rw [drain_more (hfirst.extractNext_good (verifyPacket_encodeFrame p)), stripPayload_encodeFrame,
      ih (fun q hq => hps q (List.mem_cons_of_mem p hq)) (junk := []) rfl rfl]
    simp [encodeFrame_length, Nat.add_assoc, Nat.add_comm 1]

/-- A `FEED` after which the buffer is junk and whole frames. -/
theorem exec_feed_frames {s : State} {c junk : Bytes} {ps : List Bytes} (hne : ps ≠ []) (hjunk : startFree junk)
    (hps : ∀ p ∈ ps, endFree p) (hbuf : s.rxbuf ++ c = junk ++ (ps.map encodeFrame).flatten) :
    exec (.feed c) s = .next { s with
      rxbuf := []
      totalReceivedBytes := s.totalReceivedBytes + (ps.map fun p => p.length + 6).sum
      totalPacketsReceived := s.totalPacketsReceived + ps.length
      outbox := s.outbox ++ [.events (ps.map FrameEvent.payloadReceived)] } := by
  have hdrain := drain_frames hps (s := bufAppend s c) hjunk hbuf
  rw [if_neg hne] at hdrain
  exact exec_feed_of_drain hdrain

/-- A `FEED` after which the buffer is junk and one whole frame. -/
theorem exec_feed_frame {s : State} {c junk p : Bytes} (hjunk : startFree junk) (hp : endFree p)
    (hbuf : s.rxbuf ++ c = junk ++ encodeFrame p) :
    exec (.feed c) s = .next { s with
      rxbuf := []
      totalReceivedBytes := s.totalReceivedBytes + (p.length + 6)
      totalPacketsReceived := s.totalPacketsReceived + 1
      outbox := s.outbox ++ [.events [.payloadReceived p]] } :=
  exec_feed_frames (ps := [p]) (List.cons_ne_nil _ _) hjunk (by simpa using hp) (by simpa using hbuf)

/-- Settles O27: the junk is that of the buffer and that of the chunk together. -/
theorem garbagePrefixIsDropped : Obligations.GarbagePrefixIsDropped :=
  fun _ _ _ hjunk hp => exec_feed_frame hjunk hp (List.append_assoc _ _ _).symm

/-- Settles O28: with `AA` waiting, the junk `BB` completes a `START`, and the packet from there fails the check. -/
theorem garbagePrefixNeedsTheJunction : Obligations.GarbagePrefixNeedsTheJunction :=
  ⟨[0xBB], [], { State.reset with rxbuf := [0xAA] }, _, by decide, by decide, by decide, exec_feed_eq _ _,
    by decide +kernel⟩

/-- Settles O29: the frames stand behind the START-free buffer. -/
theorem burstIsDeliveredInOrder : Obligations.BurstIsDeliveredInOrder :=
  fun _ _ hne hs hps => exec_feed_frames hne hs hps rfl

/-- Settles O18: the loop's run is the one run of the relation, and it leaves the sent counters and the host's side; the
example is the frame of `41 42` fed to an empty buffer. -/
theorem feedPerformsThePseudocode : Obligations.FeedPerformsThePseudocode := by
  refine ⟨fun c s => ?_, ?_⟩
  · obtain ⟨xs, hrun, hes⟩ := exists_feedRun_drain (bufAppend s c)
    have hacc := drain_account (bufAppend s c)
    refine ⟨xs, (drain (bufAppend s c)).1, hrun, ?_, hacc.sentBytes, hacc.sentPackets, hacc.inbox, hacc.outbox,
      fun _ _ => feedRun_unique hrun⟩
    rw [exec_feed_eq, hes, hacc.outbox]
    rfl
  · exact exec_feed_frame (junk := []) (p := [0x41, 0x42]) rfl (by decide) (by decide +kernel)

/-! ### A `START` that waits -/

/-- Settles O34: the packet begins at the stale `START` and ends with the frame. -/
theorem staleStartSwallowsTheFrame : Obligations.StaleStartSwallowsTheFrame := by
  intro p s i hp hi hnone
  have hfirst : FirstPacket (s.rxbuf ++ encodeFrame p) (s.rxbuf.drop i ++ encodeFrame p) [] :=
    firstPacket_after_stale_start hp hi hnone (crcField (crc16 (frameBody p)))
  have hlen : (s.rxbuf.drop i ++ encodeFrame p).length = s.rxbuf.length - i + (p.length + 6) := by
    rw [List.length_append, List.length_drop, encodeFrame_length]
  rw [← hlen]
  exact ⟨exec_feed_last_bad hfirst, exec_feed_last_good hfirst⟩

/-! ### An `END` in the payload -/

/-- A frame whose payload holds an `END` begins with the body of what stands before it. -/
theorem encodeFrame_inner_end (a b : Bytes) : encodeFrame (a ++ [0xCC, 0xDD] ++ b) =
    frameBody a ++ (b ++ [0xCC, 0xDD] ++ crcField (crc16 (frameBody (a ++ [0xCC, 0xDD] ++ b)))) := by
  simp [encodeFrame, frameBody, delimBytes, endMark]

/-- Settles O35: the first packet is the body of `a` and two bytes more, which is too short for the whole payload. -/
theorem endInsideThePayloadCutsTheFrame : Obligations.EndInsideThePayloadCutsTheFrame := by
  intro a b s t ha hs h
  have hfirst := firstPacket_after_junk hs ha
    (b ++ [0xCC, 0xDD] ++ crcField (crc16 (frameBody (a ++ [0xCC, 0xDD] ++ b))))
  rw [← encodeFrame_inner_end, List.take_append_of_le_length (by simp)] at hfirst
  have hlen : (frameBody a ++ (b ++ [0xCC, 0xDD]).take 2).length = a.length + 6 := by
    simp [frameBody_length]
  cases hv : verifyPacket (frameBody a ++ (b ++ [0xCC, 0xDD]).take 2) with
  | true =>
    obtain ⟨es, u, -, -, hexec⟩ := exec_feed_first
      (FirstPacket.extractNext_good (s := bufAppend s (encodeFrame (a ++ [0xCC, 0xDD] ++ b))) hfirst hv)
    cases h.symm.trans hexec
    have hstrip : (stripPayload (frameBody a ++ (b ++ [0xCC, 0xDD]).take 2)).length = a.length := by
      rw [stripPayload_length, hlen, Nat.add_sub_cancel]
    refine ⟨_, es, rfl, congrArg (· + 6) hstrip, fun heq => ?_, fun _ _ => FrameEvent.noConfusion⟩
    rw [FrameEvent.payloadReceived.inj heq] at hstrip
    simp at hstrip
  | false =>
    obtain ⟨es, u, -, -, hexec⟩ := exec_feed_first
      (FirstPacket.extractNext_bad (s := bufAppend s (encodeFrame (a ++ [0xCC, 0xDD] ++ b))) hfirst hv)
    cases h.symm.trans hexec
    refine ⟨_, es, rfl, hlen, FrameEvent.noConfusion, fun raw _ heq => ?_⟩
    rw [← (FrameEvent.corruptPacket.inj heq).1]
    simp [frameBody, delimBytes, startMark, endMark]

end Sys2Proof.Machine
end

section
/-! SUPPORT. Frames that arrive in several chunks (44_laws.md section 2, reassembly across fragmentation): chunks that leave
the buffer quiescent, what a frame cut before its `END` is, and what the block makes of a frame cut behind it. -/

namespace Sys2Proof.Machine

open Sys2Proof.Safety

/-! ### Operations one after another -/

theorem execAll_append {is js : List Instr} {s t : State} (h : execAll is s = .next t) :
    execAll (is ++ js) s = execAll js t := by
  induction is generalizing s with
  | nil =>
    cases h
    rfl
  | cons i is ih =>
    rw [execAll] at h
    rw [List.cons_append, execAll]
    cases hi : exec i s with
    | next u => exact ih (by simpa [hi] using h)
    | fault r => simp [hi] at h
    | refused r => simp [hi] at h

theorem execAll_cons {i : Instr} {is : List Instr} {s t : State} (h : exec i s = .next t) :
    execAll (i :: is) s = execAll is t := by
  rw [execAll, h]

/-! ### Chunks that only wait -/

/-- What is in front of a quiescent sequence's end is quiescent. -/
theorem quiescent_of_append {b c : Bytes} (h : quiescent (b ++ c) = true) : quiescent b = true := by
  rw [quiescent_iff_occursAt] at h ⊢
  intro i j hi hj
  exact h i j ((occursAt_append_left (lt_length_of_occursAt hi)).2 hi)
    ((occursAt_append_left (lt_length_of_occursAt hj)).2 hj)

/-- Chunks that leave the buffer quiescent to the end are kept, each `FEED` returning nothing. -/
theorem execAll_feed_quiescent {chunks : List Bytes} {s : State}
    (h : quiescent (s.rxbuf ++ chunks.flatten) = true) :
    execAll (chunks.map Instr.feed) s = .next { s with
      rxbuf := s.rxbuf ++ chunks.flatten
      outbox := s.outbox ++ List.replicate chunks.length (.events []) } := by
  induction chunks generalizing s with
  | nil => simp [execAll]
  | cons c cs ih =>
    rw [List.flatten_cons, ← List.append_assoc] at h
    rw [List.map_cons, execAll_cons (exec_feed_quiescent (quiescent_of_append h)), ih h]
    simp [List.replicate_succ]

/-- A `START` and an `END` behind it take four bytes. -/
theorem quiescent_of_length_lt {b : Bytes} (h : b.length < 4) : quiescent b = true := by
  rw [quiescent_iff_occursAt]
  intro i j _ hj
  have hlen := lt_length_of_occursAt hj
  omega

/-! ### A frame cut before its `END` is there -/

theorem encodeFrame_take_add (p : Bytes) (n : Nat) :
    (encodeFrame p).take (p.length + 4 + n) = frameBody p ++ (crcField (crc16 (frameBody p))).take n := by
  rw [encodeFrame, ← frameBody_length, List.take_length_add_append]

theorem occursAt_of_take {b : Bytes} {d : Delimiter} {k j : Nat} (h : occursAt (b.take k) d j) :
    j + 2 ≤ k ∧ occursAt b d j := by
  have hlen := lt_length_of_occursAt h
  rw [List.length_take] at hlen
  rw [← List.take_append_drop k b]
  exact ⟨by omega, (occursAt_append_left (by rw [List.length_take]; omega)).2 h⟩

/-- Junk and a frame whose `END` has not wholly arrived wait: the first `START` is the frame's, and no `END` stands
between it and the frame's. -/
theorem quiescent_junk_frame_take {junk p : Bytes} {k : Nat} (hjunk : startFree junk) (hp : endFree p)
    (hk : k < p.length + 4) : quiescent (junk ++ (encodeFrame p).take k) = true := by
  have hstart := find_startMark_junk_frameBody hjunk p (crcField (crc16 (frameBody p)))
  have hend := find_endMark_junk_frameBody junk hp (crcField (crc16 (frameBody p)))
  rw [quiescent_iff_occursAt, ← List.take_length_add_append]
  intro i j hi hj
  obtain ⟨-, hi⟩ := occursAt_of_take hi
  obtain ⟨hjk, hj⟩ := occursAt_of_take hj
  have hfirst : junk.length ≤ i := by
    by_contra hlt
    exact ((find_eq_some_iff _ _ _ _).1 hstart).2.2 i (Nat.zero_le i) (by omega) hi
  by_contra hle
  exact ((find_eq_some_iff _ _ _ _).1 hend).2.2 j (by omega) (by omega) hj

/-! ### The values returned -/

@[simp] theorem allEvents_nil : allEvents [] = [] := rfl

@[simp] theorem allEvents_cons (r : Response) (rs : List Response) :
    allEvents (r :: rs) = responseEvents r ++ allEvents rs := rfl

@[simp] theorem allEvents_append (rs qs : List Response) : allEvents (rs ++ qs) = allEvents rs ++ allEvents qs := by
  simp [allEvents]

theorem allEvents_replicate_empty (n : Nat) : allEvents (List.replicate n (.events [])) = [] := by
  simp [allEvents, responseEvents]

/-! ### A frame whose chunks spare its tail (case (a)) -/

/-- Among chunks that reach a length there is the one that reaches it. -/
theorem exists_chunk_reaching {chunks : List Bytes} {n : Nat} (hpos : 0 < n) (h : n ≤ chunks.flatten.length) :
    ∃ before c after, chunks = before ++ c :: after ∧ before.flatten.length < n ∧
      n ≤ (before.flatten ++ c).length := by
  induction chunks generalizing n with
  | nil => exact absurd (hpos.trans_le h) (Nat.lt_irrefl 0)
  | cons c cs ih =>
    rcases Nat.lt_or_ge c.length n with hlt | hge
    · rw [List.flatten_cons, List.length_append] at h
      obtain ⟨before, c', after, rfl, hbefore, hreach⟩ := ih (n := n - c.length) (by omega) (by omega)
      refine ⟨c :: before, c', after, rfl, ?_, ?_⟩
      · rw [List.flatten_cons, List.length_append]
        omega
      · rw [List.length_append] at hreach
        rw [List.flatten_cons, List.append_assoc, List.length_append, List.length_append]
        omega
    · exact ⟨[], c, cs, rfl, hpos, hge⟩

/-- Settles O30: the chunks before the one that reaches the `END` wait, that one ends with the frame, and those after it
are empty. -/
theorem fragmentedFrameIsDelivered : Obligations.FragmentedFrameIsDelivered := by
  intro p chunks s hp hs hframe hcuts
  have htotal := congrArg List.length hframe
  rw [encodeFrame_length] at htotal
  obtain ⟨before, c, after, rfl, hbefore, hreach⟩ :=
    exists_chunk_reaching (chunks := chunks) (n := p.length + 4) (by omega) (by omega)
  rw [List.flatten_append, List.flatten_cons, ← List.append_assoc] at hframe htotal
  have hcut : (before.flatten ++ c).length ≠ p.length + 4 ∧ (before.flatten ++ c).length ≠ p.length + 5 := by
    have hcut := hcuts (before.length + 1)
    rwa [List.take_length_add_append, List.flatten_append, List.take_one, List.head?_cons, Option.toList_some,
      List.flatten_singleton] at hcut
  have hafter : after.flatten = [] := List.eq_nil_of_length_eq_zero (by rw [List.length_append] at htotal; omega)
  rw [hafter, List.append_nil] at hframe
  have hprefix : before.flatten = (encodeFrame p).take before.flatten.length := by rw [← hframe, List.take_left]
  have hwait : quiescent (s.rxbuf ++ before.flatten) = true := hprefix ▸ quiescent_junk_frame_take hs hp hbefore
  refine ⟨List.replicate before.length (.events []) ++
    .events [.payloadReceived p] :: List.replicate after.length (.events []), ?_, ?_, ?_⟩
  · simp [allEvents_replicate_empty, responseEvents]
  · simp
  · rw [List.map_append, execAll_append (execAll_feed_quiescent hwait), List.map_cons,
      execAll_cons (exec_feed_frame hs hp (by rw [List.append_assoc, hframe])),
      execAll_feed_quiescent (by rw [hafter]; rfl)]
    simp [hafter]

/-! ### A frame cut behind its `END` (case (b)) -/

/-- A frame cut there is the first candidate packet, and ends the buffer. -/
theorem firstPacket_cut_short {junk p : Bytes} (hjunk : startFree junk) (hp : endFree p) (n : Nat) :
    FirstPacket (junk ++ (encodeFrame p).take (p.length + 4 + n)) ((encodeFrame p).take (p.length + 4 + n)) [] := by
  have hlen : ((crcField (crc16 (frameBody p))).take n).length ≤ 2 := List.length_take_le' _ _
  have h := firstPacket_after_junk hjunk hp ((crcField (crc16 (frameBody p))).take n)
  rwa [List.take_of_length_le hlen, List.drop_eq_nil_of_le hlen, ← encodeFrame_take_add] at h

/-- For no low byte does the CRC step over `DD` give it as the high byte: 256 cases. -/
theorem hi8_crcUpdate_end_ne : ∀ l : Byte, hi8 (crcUpdate 0 (l ^^^ endMark.second)) ≠ l := by decide +kernel

/-- The byte step's high byte comes from the low byte alone (40_crc16.md section 4). -/
theorem hi8_crcUpdate (r : Word16) (b : Byte) : hi8 (crcUpdate r b) = hi8 (crcUpdate 0 (lo8 r ^^^ b)) := by
  have hhigh : hi8 (r >>> 8) = 0 := by
    ext i hi
    simpa [hi8] using BitVec.getLsbD_of_ge r _ (by omega)
  rw [crcUpdate_eq_table, lo8_xor_zext16, hi8, BitVec.extractLsb'_xor, ← hi8, hhigh, zero_xor, ← hi8]

/-- With the high CRC byte alone behind it, the body never passes: its last byte `DD` and that byte would be the CRC of
what stands before them. -/
theorem verifyPacket_one_crc_byte (p : Bytes) :
    verifyPacket (frameBody p ++ (crcField (crc16 (frameBody p))).take 1) = false := by
  have hbody : frameBody p = (delimBytes startMark ++ p ++ [endMark.first]) ++ [endMark.second] := by
    simp [frameBody, delimBytes]
  generalize delimBytes startMark ++ p ++ [endMark.first] = d at hbody
  have hpacket : frameBody p ++ (crcField (crc16 (frameBody p))).take 1 =
      d ++ [endMark.second, hi8 (crc16 (frameBody p))] := by simp [hbody, crcField]
  rw [hpacket, verifyPacket_append_pair, decide_eq_false_iff_not]
  intro hcrc
  have hlow : lo8 (crc16 d) = hi8 (crc16 (frameBody p)) := by
    have hfield := crcField_of_bytes endMark.second (hi8 (crc16 (frameBody p)))
    rw [hcrc] at hfield
    simpa [crcField] using congrArg (List.drop 1) hfield
  rw [hbody, crc16_append, crcFold, crcFold, hi8_crcUpdate] at hlow
  exact hi8_crcUpdate_end_ne _ hlow.symm

/-- What a frame cut short delivers by coincidence is not its payload. -/
theorem stripPayload_cut_short_ne {p : Bytes} {n : Nat} (hp : endFree p) (hn : n ≤ 1)
    (hv : verifyPacket ((encodeFrame p).take (p.length + 4 + n)) = true) :
    stripPayload ((encodeFrame p).take (p.length + 4 + n)) ≠ p := by
  intro heq
  have hlen := congrArg List.length heq
  rw [encodeFrame_take_add] at hv hlen
  have hsix := six_le_length_of_verifyPacket ⟨rfl, rfl⟩ (find_endMark_frameBody hp _ le_rfl) hv
  rw [List.length_append, frameBody_length, List.length_take] at hsix
  rw [stripPayload_length, List.length_append, frameBody_length, List.length_take] at hlen
  omega

/-- A `FEED` whose one packet ends the buffer leaves it empty. -/
theorem rxbuf_of_exec_feed_last {s t : State} {c packet : Bytes} (h : FirstPacket (s.rxbuf ++ c) packet [])
    (hexec : exec (.feed c) s = .next t) : t.rxbuf = [] := by
  cases hv : verifyPacket packet with
  | true =>
    cases hexec.symm.trans (exec_feed_last_good h hv)
    rfl
  | false =>
    cases hexec.symm.trans (exec_feed_last_bad h hv)
    rfl

/-- Settles O31: the frame cut short is the packet, by the outcome of the check; and the CRC bytes that remain are too few
to make a packet. -/
theorem cutShortFrameIsNotDelivered : Obligations.CutShortFrameIsNotDelivered := by
  intro p junk got chunk k s hp hjunk hk hbuf hgot _
  obtain ⟨n, hn, rfl⟩ : ∃ n ≤ 1, k = p.length + 4 + n := ⟨k - (p.length + 4), by omega, by omega⟩
  have hfirst : FirstPacket (s.rxbuf ++ chunk) ((encodeFrame p).take (p.length + 4 + n)) [] := by
    rw [hbuf, List.append_assoc, hgot]
    exact firstPacket_cut_short hjunk hp n
  have hlen : ((encodeFrame p).take (p.length + 4 + n)).length = p.length + 4 + n := by
    rw [List.length_take, encodeFrame_length]
    omega
  refine ⟨fun hone => ?_, fun hv => ?_, fun hv => ⟨_, stripPayload_cut_short_ne hp hn hv, ?_⟩,
    fun t later hexec hlater => ?_⟩
  · obtain rfl : n = 1 := by omega
    rw [encodeFrame_take_add]
    exact verifyPacket_one_crc_byte p
  · have hfeed := exec_feed_last_bad hfirst hv
    rwa [hlen] at hfeed
  · have hfeed := exec_feed_last_good hfirst hv
    rwa [hlen] at hfeed
  · have hempty := rxbuf_of_exec_feed_last hfirst hexec
    have hshort : (t.rxbuf ++ later.flatten).length < 4 := by
      rw [hempty, hlater, List.nil_append, List.length_drop, encodeFrame_length]
      omega
    rw [execAll_feed_quiescent (quiescent_of_length_lt hshort), hempty, hlater, List.nil_append]

end Sys2Proof.Machine
end

section
/-! SUPPORT. The packet counters against what was returned since the last `RESET` (43_counters.md section 3): how the
record of returned values grows with one value, and that every step keeps the two counters equal to what it says. -/

namespace Sys2Proof.Machine

open Sys2Proof.Safety

/-! ### The values returned since the last `RESET` -/

theorem sinceReset_append (rs : List Response) (r : Response) :
    sinceReset (rs ++ [r]) = if r = .resetDone then [] else sinceReset rs ++ [r] := by
  simp [sinceReset]

theorem allEvents_sinceReset_append {r : Response} (hr : r ≠ .resetDone) (rs : List Response) :
    allEvents (sinceReset (rs ++ [r])) = allEvents (sinceReset rs) ++ responseEvents r := by
  rw [sinceReset_append, if_neg hr, allEvents_append, allEvents_cons, allEvents_nil, List.append_nil]

/-! ### The packet counters -/

/-- The packet counters are what the values returned since the last `RESET` say: a part of `Inv`. -/
def PacketsCounted (s : State) : Prop :=
  s.totalPacketsReceived = (allEvents (sinceReset s.outbox)).length ∧
    s.lostPackets = (allEvents (sinceReset s.outbox)).countP isCorrupt

theorem PacketsCounted.of_inv {s : State} (h : Inv s) : PacketsCounted s := ⟨h.receivedPackets, h.lost⟩

/-- An operation that returns no event and leaves the packet counters alone. -/
theorem PacketsCounted.giveBack_silent {s t : State} {r : Response} (h : PacketsCounted s) (hr : r ≠ .resetDone)
    (hsilent : responseEvents r = []) (hout : t.outbox = s.outbox)
    (hreceived : t.totalPacketsReceived = s.totalPacketsReceived) (hlost : t.lostPackets = s.lostPackets) :
    PacketsCounted (giveBack t r) := by
  obtain ⟨hcount, hcorrupt⟩ := h
  rw [PacketsCounted, giveBack_outbox, hout, allEvents_sinceReset_append hr, hsilent, List.append_nil]
  exact ⟨hreceived.trans hcount, hlost.trans hcorrupt⟩

/-- A `FEED` counts the events it returns. -/
theorem PacketsCounted.feed {s t : State} {c : Bytes} (h : PacketsCounted s) (hexec : execFeed c s = .next t) :
    PacketsCounted t := by
  obtain ⟨hcount, hcorrupt⟩ := h
  have hacc := feed_account s c
  rw [execFeed_eq] at hexec
  cases hexec
  rw [PacketsCounted, giveBack_outbox, hacc.outbox, allEvents_sinceReset_append Response.noConfusion,
    List.length_append, List.countP_append, ← hcount, ← hcorrupt]
  exact ⟨hacc.receivedPackets, hacc.lost⟩

theorem PacketsCounted.exec {i : Instr} {s t : State} (h : PacketsCounted s) (hexec : exec i s = .next t) :
    PacketsCounted t := by
  cases i with
  | crc16 data | encode payload | verify packet | rdcnt sel =>
    cases hexec
    exact h.giveBack_silent Response.noConfusion rfl rfl rfl rfl
  | send payload wr =>
    cases hexec
    cases wr <;> exact h.giveBack_silent Response.noConfusion rfl rfl rfl rfl
  | feed c | startDelim | endDelim | frame payload crcHi crcLo => exact h.feed hexec
  | reset =>
    cases hexec
    rw [PacketsCounted, giveBack_outbox, sinceReset_append, if_pos rfl]
    exact ⟨rfl, rfl⟩

theorem PacketsCounted.step {s t : State} (h : PacketsCounted s) (hstep : step s = .next t) : PacketsCounted t := by
  obtain ⟨-, rfl⟩ | ⟨r, rest, i, -, -, hexec⟩ := step_next_cases hstep
  · exact h
  · exact PacketsCounted.exec (s := { s with inbox := rest }) h hexec

/-- Settles O46: of the events counted, each is a `CorruptPacket` or it is not. -/
theorem packetsReceivedAreValidPlusLost : Obligations.PacketsReceivedAreValidPlusLost := by
  intro s t hinv hstep
  obtain ⟨hcount, hcorrupt⟩ := (PacketsCounted.of_inv hinv).step hstep
  rw [hcount, hcorrupt]
  refine ⟨?_, List.countP_le_length⟩
  simpa [Nat.add_comm] using List.length_eq_countP_add_countP isCorrupt (l := allEvents (sinceReset t.outbox))

end Sys2Proof.Machine
end

section
/-! SUPPORT. No exceptions (60_exceptions.md): every instruction answers a next state (R166), and a write that fails is a
returned value (R163). -/

namespace Sys2Proof.Machine

/-! ### Every instruction completes -/

theorem execFeed_completes (c : Bytes) (s : State) : ∃ t, execFeed c s = .next t := ⟨_, execFeed_eq c s⟩

/-- Settles O52: a wire pattern is the `FEED` of its bytes, `FEED` and `SEND` meet no limit in the spec's block, and no
other instruction has one. -/
theorem everyInstructionCompletes : Obligations.EveryInstructionCompletes := by
  intro i s
  cases i with
  | crc16 data | encode payload | verify packet | rdcnt sel | reset => exact ⟨_, rfl⟩
  | send payload wr => exact ⟨_, execSend_eq payload wr s⟩
  | feed c => exact execFeed_completes c s
  | startDelim => exact execFeed_completes (delimBytes startMark) s
  | endDelim => exact execFeed_completes (delimBytes endMark) s
  | frame payload crcHi crcLo => exact execFeed_completes (wireFrame payload crcHi crcLo) s

/-! ### A write that fails -/

/-- Settles O42: a failed write accounts nothing, so the answer given back is the only change. -/
theorem sendFailureLeavesCounters : Obligations.SendFailureLeavesCounters := by
  intro payload s
  calc exec (.send payload .failure) s
      = .next (giveBack (accountWrite s .failure) (.sent (encodeFrame payload) .failure)) :=
        execSend_eq payload .failure s
    _ = .next (giveBack s (.sent (encodeFrame payload) .failure)) := by rw [accountWrite_failure]

end Sys2Proof.Machine
end

section
/-! SUPPORT. What an operation returns and what it accounts for (00_scope.md section 7, 43_counters.md section 3): the
returned value as a function of the instruction and the state, and one account of the counters, the draws and the returned
values that every instruction but `RESET` keeps. From these the writers of each counter and the invariant of the block
(10_state.md sections 5 and 6). -/

namespace Sys2Proof.Machine

open Sys2Proof.Safety

/-! ### The value an instruction returns -/

/-- The one value that `exec i` returns from `s`. -/
def responseOf (s : State) : Instr → Response
  | .crc16 data => .crc (crc16 data)
  | .encode payload => .frame (encodeFrame payload)
  | .verify packet => .verdict (verifyPacket packet)
  | .feed c => .events (feed s c).2
  | .send payload wr => .sent (encodeFrame payload) wr
  | .rdcnt sel => .counter (readCounter s sel)
  | .reset => .resetDone
  | .startDelim => .events (feed s (delimBytes startMark)).2
  | .endDelim => .events (feed s (delimBytes endMark)).2
  | .frame payload crcHi crcLo => .events (feed s (wireFrame payload crcHi crcLo)).2

/-- The instruction appends its one value to those returned before, and leaves what the host has presented alone. -/
theorem exec_returns {i : Instr} {s t : State} (h : exec i s = .next t) :
    t.inbox = s.inbox ∧ t.outbox = s.outbox ++ [responseOf s i] := by
  cases i with
  | crc16 data | encode payload | verify packet | rdcnt sel | reset =>
    cases h
    exact ⟨rfl, rfl⟩
  | send payload wr =>
    cases h
    cases wr <;> exact ⟨rfl, rfl⟩
  | feed c | startDelim | endDelim | frame payload crcHi crcLo =>
    cases h
    exact ⟨(feed_account s _).inbox, congrArg (· ++ _) (feed_account s _).outbox⟩

/-- Settles O53: the value returned is of the instruction's own kind by its definition. -/
theorem eachOperationReturnsOneValue : Obligations.EachOperationReturnsOneValue := by
  intro i s t h
  obtain ⟨hin, hout⟩ := exec_returns h
  refine ⟨hin, responseOf s i, hout, ?_⟩
  cases i with
  | crc16 _ | encode _ | verify _ | feed _ | startDelim | endDelim | frame _ _ _ => exact ⟨_, rfl⟩
  | send _ _ | rdcnt _ | reset => rfl

/-! ### What a returned value accounts for -/

/-- From `s` to `t` the counters and the count of draws grow by what the one returned value `r` says, whose timestamps are
the next draws in order. -/
structure ResponseAccount (s t : State) (r : Response) : Prop where
  sentBytes : t.totalSentBytes = s.totalSentBytes + bytesSent r
  sentPackets : t.totalPacketsSent = s.totalPacketsSent + packetsSent r
  receivedBytes : t.totalReceivedBytes = s.totalReceivedBytes + ((responseEvents r).map packetLength).sum
  receivedPackets : t.totalPacketsReceived = s.totalPacketsReceived + (responseEvents r).length
  lost : t.lostPackets = s.lostPackets + (responseEvents r).countP isCorrupt
  draws : t.tsDraws = s.tsDraws + (responseEvents r).countP isCorrupt
  stamps : (responseEvents r).filterMap stampOf =
    (List.range' s.tsDraws ((responseEvents r).countP isCorrupt)).map Config.timestampDraw

/-- An extraction hands out the next draw when its event is a `CorruptPacket`, and none otherwise (R110). -/
theorem stamps_extractNext {s t : State} {e : FrameEvent} (h : extractNext s = some (t, e)) :
    [e].filterMap stampOf = (List.range' s.tsDraws ([e].countP isCorrupt)).map Config.timestampDraw := by
  obtain ⟨_, _, _, -, -, -, ⟨-, rfl, -⟩ | ⟨-, rfl, -⟩⟩ := extractNext_cases h <;> rfl

/-- The loop hands out one draw per `CorruptPacket`, in order, from the first that is not used up (00_scope.md R11). -/
theorem stamps_drain (s : State) : (drain s).2.filterMap stampOf =
    (List.range' s.tsDraws ((drain s).2.countP isCorrupt)).map Config.timestampDraw := by
  refine drain_induction (motive := fun s _ es => es.filterMap stampOf =
    (List.range' s.tsDraws (es.countP isCorrupt)).map Config.timestampDraw) (fun _ _ => rfl) ?_ s
  intro s t e hx ih
  have hdraws := (FeedAccount.of_extractNext hx).draws
  rw [← List.singleton_append, List.filterMap_append, List.countP_append, stamps_extractNext hx, ih, hdraws,
    ← List.map_append, List.range'_append_1]

theorem responseAccount_feed (s : State) (c : Bytes) (r : Response) :
    ResponseAccount s (giveBack (feed s c).1 r) (.events (feed s c).2) :=
  have h := feed_account s c
  { h with stamps := stamps_drain (bufAppend s c) }

theorem responseAccount_accountWrite (s : State) (f : Bytes) (wr : WriteResult) (r : Response) :
    ResponseAccount s (giveBack (accountWrite s wr) r) (.sent f wr) := by
  cases wr <;> constructor <;> rfl

/-- Every instruction but `RESET` accounts for the value it returns, and for nothing else. -/
theorem exec_account {i : Instr} {s t : State} (hi : i ≠ .reset) (h : exec i s = .next t) :
    ResponseAccount s t (responseOf s i) := by
  cases i with
  | crc16 data | encode payload | verify packet | rdcnt sel =>
    cases h
    constructor <;> rfl
  | send payload wr =>
    cases h
    exact responseAccount_accountWrite s _ wr _
  | feed c | startDelim | endDelim | frame payload crcHi crcLo =>
    cases h
    exact responseAccount_feed s _ _
  | reset => exact absurd rfl hi

/-- A value that reports no write and no event leaves every counter alone. -/
theorem ResponseAccount.readCounter_eq {s t : State} {r : Response} (h : ResponseAccount s t r) (hb : bytesSent r = 0)
    (hp : packetsSent r = 0) (he : responseEvents r = []) (sel : CounterSel) : readCounter t sel = readCounter s sel := by
  obtain ⟨hsentB, hsentP, hrecvB, hrecvP, hlost, -, -⟩ := h
  rw [hb] at hsentB
  rw [hp] at hsentP
  rw [he] at hrecvB hrecvP hlost
  cases sel
  exacts [hsentB, hrecvB, hsentP, hrecvP, hlost]

/-- Settles O44: the account of the returned value names the writers; `RESET` clears. -/
theorem counterWriters : Obligations.CounterWriters := by
  intro i s t h
  cases i with
  | crc16 _ | encode _ | verify _ | rdcnt _ =>
    exact (exec_account Instr.noConfusion h).readCounter_eq rfl rfl rfl
  | send payload wr =>
    have hacc := exec_account Instr.noConfusion h
    cases wr with
    | failure => exact hacc.readCounter_eq rfl rfl rfl
    | written n => exact ⟨hacc.sentBytes, hacc.sentPackets, hacc.receivedBytes, hacc.receivedPackets, hacc.lost⟩
  | feed _ | startDelim | endDelim | frame _ _ _ =>
    have hacc := exec_account Instr.noConfusion h
    exact ⟨hacc.sentBytes, hacc.sentPackets, _, (exec_returns h).2, hacc.receivedBytes, hacc.receivedPackets, hacc.lost⟩
  | reset =>
    cases h
    rintro (_ | _ | _ | _ | _) <;> rfl

/-- Settles O19: these four return an event list, which reports nothing sent. -/
theorem feedLeavesTheSendSideAlone : Obligations.FeedLeavesTheSendSideAlone := by
  intro i s t hi h
  obtain ⟨hin, hout⟩ := exec_returns h
  rcases hi with rfl | rfl | ⟨_, rfl⟩ | ⟨_, _, _, rfl⟩
  all_goals
    have hacc := exec_account Instr.noConfusion h
    exact ⟨hacc.sentBytes, hacc.sentPackets, hin, _, hout⟩

/-! ### The invariant -/

/-- Every instruction leaves the buffer quiescent (42_reassembler.md R103): `FEED` by its loop, `RESET` empty, the others
as it was. -/
theorem quiescent_exec {i : Instr} {s t : State} (hs : quiescent s.rxbuf = true) (h : exec i s = .next t) :
    quiescent t.rxbuf = true := by
  cases i with
  | crc16 data | encode payload | verify packet | rdcnt sel =>
    cases h
    exact hs
  | send payload wr =>
    cases h
    cases wr <;> exact hs
  | feed c | startDelim | endDelim | frame payload crcHi crcLo =>
    cases h
    exact quiescent_drain (bufAppend s _)
  | reset =>
    cases h
    rfl

/-- An operation that accounts for the one value it appends keeps the invariant. -/
theorem inv_of_account {s t : State} {r : Response} (h : Inv s) (hr : r ≠ .resetDone)
    (hbuf : quiescent t.rxbuf = true) (hout : t.outbox = s.outbox ++ [r]) (hacc : ResponseAccount s t r) : Inv t := by
  have hsince : sinceReset t.outbox = sinceReset s.outbox ++ [r] := by rw [hout, sinceReset_append, if_neg hr]
  constructor
  case buffer => exact hbuf
  case sentBytes => simp [hsince, hacc.sentBytes, h.sentBytes]
  case sentPackets => simp [hsince, hacc.sentPackets, h.sentPackets]
  case receivedBytes => simp [hsince, hacc.receivedBytes, h.receivedBytes]
  case receivedPackets => simp [hsince, hacc.receivedPackets, h.receivedPackets]
  case lost => simp [hsince, hacc.lost, h.lost]
  case stamps =>
    have hdraws : List.range t.tsDraws =
        List.range s.tsDraws ++ List.range' s.tsDraws ((responseEvents r).countP isCorrupt) := by
      rw [hacc.draws, List.range_eq_range', List.range_eq_range', ← List.range'_append_1, Nat.zero_add]
    rw [hdraws, List.map_append, ← h.stamps, ← hacc.stamps, hout]
    simp

/-- `RESET` starts the account again at zero, and the draws go on. -/
theorem inv_reset {s : State} (h : Inv s) : Inv (giveBack (clearAll s) .resetDone) := by
  have hsince : sinceReset (giveBack (clearAll s) .resetDone).outbox = [] := by
    rw [giveBack_outbox, sinceReset_append, if_pos rfl]
  constructor
  case buffer => rfl
  case stamps => simpa [responseEvents] using h.stamps
  all_goals
    rw [hsince]
    rfl

/-- A value that is the mark of `RESET` comes from `RESET`. -/
theorem responseOf_ne_resetDone {i : Instr} (hi : i ≠ .reset) (s : State) : responseOf s i ≠ .resetDone := by
  cases i with
  | reset => exact absurd rfl hi
  | _ => exact Response.noConfusion

theorem inv_exec {i : Instr} {s t : State} (h : Inv s) (hexec : exec i s = .next t) : Inv t := by
  by_cases hi : i = .reset
  · subst hi
    cases hexec
    exact inv_reset h
  · exact inv_of_account h (responseOf_ne_resetDone hi s) (quiescent_exec h.buffer hexec) (exec_returns hexec).2
      (exec_account hi hexec)

/-- Taking a request changes nothing that the invariant speaks of. -/
theorem inv_with_inbox {s : State} (h : Inv s) (rest : List Request) : Inv { s with inbox := rest } := { h with }

/-- Settles O51: a step waits or performs one instruction, and every instruction keeps the invariant. -/
theorem stepKeepsTheInvariant : Obligations.StepKeepsTheInvariant := by
  intro s t h hstep
  obtain ⟨-, rfl⟩ | ⟨r, rest, i, -, -, hexec⟩ := step_next_cases hstep
  · exact h
  · exact inv_exec (inv_with_inbox h rest) hexec

/-- Settles O50: nothing was returned, nothing drawn, and nothing waits. -/
theorem resetMeetsTheInvariant : Obligations.ResetMeetsTheInvariant := by
  constructor <;> rfl

end Sys2Proof.Machine
end

section
/-! SUPPORT. The two encodings of 30_encoding.md: what the decoder reads from the words that the encoder writes, operand by
operand (R7, R69), the line that they make, and the chunk of a frame (R60). -/

namespace Sys2Proof

open Sys2Proof.Machine

/-! ### The words of a line (R69) -/

/-- A word that a line can carry as an input: not empty, in one piece, and not the mark of the expected output. -/
abbrev IsWord (t : Token) : Prop := t ≠ [] ∧ ' ' ∉ t ∧ t ≠ tokResult

theorem splitSpaces_word {t : Token} (ht : ' ' ∉ t) : splitSpaces t = [t] := by
  induction t with
  | nil => rfl
  | cons c cs ih =>
    obtain ⟨hc, hcs⟩ := List.ne_and_not_mem_of_not_mem_cons ht
    rw [splitSpaces, if_neg hc.symm, ih hcs]

theorem splitSpaces_word_space {t : Token} (ht : ' ' ∉ t) (rest : List Char) :
    splitSpaces (t ++ ' ' :: rest) = t :: splitSpaces rest := by
  induction t with
  | nil => rfl
  | cons c cs ih =>
    obtain ⟨hc, hcs⟩ := List.ne_and_not_mem_of_not_mem_cons ht
    rw [List.cons_append, splitSpaces, if_neg hc.symm, ih hcs]

theorem splitSpaces_joinWords {t : Token} {ts : List Token} (h : ∀ u ∈ t :: ts, ' ' ∉ u) :
    splitSpaces (joinWords (t :: ts)) = t :: ts := by
  induction ts generalizing t with
  | nil => exact splitSpaces_word (h t List.mem_cons_self)
  | cons u us ih =>
    rw [joinWords, splitSpaces_word_space (h t List.mem_cons_self), ih fun v hv => h v (List.mem_cons_of_mem t hv)]
    exact List.cons_ne_nil u us

/-- A line of words is read as its first word and the words behind it. -/
theorem decode_encodeLine {name : Token} {args : List Token} (h : ∀ t ∈ name :: args, IsWord t) :
    decode (encodeLine name args) = decodeOperation name args := by
  have hwords : lineWords (joinWords (name :: args)) = name :: args := by
    rw [lineWords, splitSpaces_joinWords fun t ht => (h t ht).2.1, List.filter_eq_self]
    intro t ht
    simpa using (h t ht).1
  have hinput : (name :: args).takeWhile (fun t => t != tokResult) = name :: args := by
    rw [List.takeWhile_eq_self_iff]
    intro t ht
    simpa using (h t ht).2.2
  rw [encodeLine, decode, decodeLine, hwords, hinput]

/-! ### Bytes in hexadecimal (R7) -/

theorem hexValue_hexDigit {n : Nat} (h : n < 16) : hexValue (hexDigit n) = some n := by
  revert n
  decide

/-- Every digit written is one that is read, whatever the number. -/
theorem isSome_hexValue_hexDigit (n : Nat) : (hexValue (hexDigit n)).isSome = true := by
  unfold hexDigit
  split <;> decide

/-- A character that is no digit stands in no word of digits. -/
theorem not_mem_of_hexDigits {c : Char} {t : Token} (hc : hexValue c = none) (ht : ∀ d ∈ t, ∃ n, d = hexDigit n) :
    c ∉ t := by
  intro hmem
  obtain ⟨n, rfl⟩ := ht c hmem
  simpa [hc] using isSome_hexValue_hexDigit n

theorem not_mem_encodeByte {c : Char} (hc : hexValue c = none) (b : Byte) : c ∉ encodeByte b :=
  not_mem_of_hexDigits hc (by simp [encodeByte])

theorem encodeByte_ne {c : Char} (hc : hexValue c = none) (b : Byte) {t : Token} (ht : c ∈ t) : encodeByte b ≠ t :=
  fun h => not_mem_encodeByte hc b (h ▸ ht)

theorem decodeByte_encodeByte (b : Byte) : decodeByte (encodeByte b) = some b := by
  have hhigh : hexValue (hexDigit (b.toNat / 16)) = some (b.toNat / 16) := hexValue_hexDigit (by omega)
  have hlow : hexValue (hexDigit (b.toNat % 16)) = some (b.toNat % 16) := hexValue_hexDigit (Nat.mod_lt _ (by decide))
  simp only [encodeByte, decodeByte, hhigh, hlow]
  rw [Nat.div_add_mod, BitVec.ofNat_toNat, BitVec.setWidth_eq]

theorem decodeByteWords_map_encodeByte (bs : Bytes) : decodeByteWords (bs.map encodeByte) = some bs := by
  induction bs with
  | nil => rfl
  | cons b bs ih => rw [List.map_cons, decodeByteWords, decodeByte_encodeByte, ih]

theorem decodeBytes_encodeBytes (bs : Bytes) : decodeBytes (encodeBytes bs) = .ok bs := by
  cases bs with
  | nil => rfl
  | cons b bs =>
    have hne : encodeBytes (b :: bs) ≠ [tokEmpty] := fun h =>
      encodeByte_ne (c := '[') (by decide) b (by decide) (List.cons.inj h).1
    have hwords : decodeByteWords (encodeBytes (b :: bs)) = some (b :: bs) := decodeByteWords_map_encodeByte (b :: bs)
    have hnil : encodeBytes (b :: bs) ≠ [] := List.cons_ne_nil _ _
    rw [decodeBytes, if_neg hne, if_neg hnil, hwords]

/-- The words of a byte sequence are inputs, and none is the arrow of `SEND`. -/
theorem isWord_of_mem_encodeBytes {bs : Bytes} {t : Token} (h : t ∈ encodeBytes bs) : IsWord t ∧ t ≠ tokArrow := by
  cases bs with
  | nil =>
    obtain rfl := List.mem_singleton.1 h
    decide
  | cons b bs =>
    obtain ⟨x, -, rfl⟩ : ∃ x ∈ b :: bs, encodeByte x = t := List.mem_map.1 h
    exact ⟨⟨List.cons_ne_nil _ _, not_mem_encodeByte (by decide) x, encodeByte_ne (c := '=') (by decide) x (by decide)⟩,
      encodeByte_ne (c := '-') (by decide) x (by decide)⟩

/-! ### Numbers in decimal -/

theorem decimalValue_hexDigit {n : Nat} (h : n < 10) : decimalValue (hexDigit n) = some n := by
  revert n
  decide

theorem decimalFrom_append {a v : Nat} {cs : List Char} (h : decimalFrom a cs = some v) (ds : List Char) :
    decimalFrom a (cs ++ ds) = decimalFrom v ds := by
  induction cs generalizing a with
  | nil =>
    cases h
    rfl
  | cons c cs ih =>
    rw [decimalFrom] at h
    rw [List.cons_append, decimalFrom]
    cases hc : decimalValue c with
    | none => simp [hc] at h
    | some d => exact ih (by simpa [hc] using h)

theorem decimalFrom_digit {a n : Nat} (h : n < 10) : decimalFrom a [hexDigit n] = some (10 * a + n) := by
  rw [decimalFrom, decimalValue_hexDigit h]
  rfl

theorem decimalFrom_decimalDigits {fuel n : Nat} (h : n ≤ fuel) : decimalFrom 0 (decimalDigits fuel n) = some n := by
  induction fuel generalizing n with
  | zero =>
    obtain rfl : n = 0 := Nat.le_zero.1 h
    rfl
  | succ fuel ih =>
    rw [decimalDigits]
    split
    next hlt => rw [decimalFrom_digit hlt, Nat.mul_zero, Nat.zero_add]
    next => rw [decimalFrom_append (ih (by omega)), decimalFrom_digit (Nat.mod_lt n (by decide)), Nat.div_add_mod]

theorem decimalDigits_are_hexDigits (fuel n : Nat) : ∀ c ∈ decimalDigits fuel n, ∃ k, c = hexDigit k := by
  induction fuel generalizing n with
  | zero => simp [decimalDigits]
  | succ fuel ih =>
    rw [decimalDigits]
    split
    next => simp
    next =>
      intro c hc
      obtain hfront | hlast := List.mem_append.1 hc
      · exact ih _ c hfront
      · exact ⟨_, List.mem_singleton.1 hlast⟩

theorem decimalDigits_ne_nil (fuel n : Nat) : decimalDigits fuel n ≠ [] := by
  cases fuel with
  | zero => exact List.cons_ne_nil _ _
  | succ fuel =>
    rw [decimalDigits]
    split <;> simp

theorem decodeDecimal_eq {cs : List Char} (h : cs ≠ []) : decodeDecimal cs = decimalFrom 0 cs := by
  cases cs with
  | nil => exact absurd rfl h
  | cons c cs => rfl

theorem decodeDecimal_encodeDecimal (n : Nat) : decodeDecimal (encodeDecimal n) = some n := by
  rw [encodeDecimal, decodeDecimal_eq (decimalDigits_ne_nil n n), decimalFrom_decimalDigits le_rfl]

/-! ### The write result and the selector (R130, R131) -/

theorem decodeWriteResult_encodeWriteResult (wr : WriteResult) : decodeWriteResult (encodeWriteResult wr) = .ok wr := by
  cases wr with
  | failure => rfl
  | written n =>
    have hne : encodeWriteResult (.written n) ≠ tokFailure := fun h => absurd (List.cons.inj h).1 (by decide)
    have hopen : tokWritten.isPrefixOf (encodeWriteResult (.written n)) = true := rfl
    have hclose : (encodeWriteResult (.written n)).getLast? = some ')' := List.getLast?_concat
    have hdigits : ((encodeWriteResult (.written n)).drop tokWritten.length).dropLast = encodeDecimal n := by
      rw [encodeWriteResult, List.append_assoc, List.drop_left, List.dropLast_concat]
    rw [decodeWriteResult, if_neg hne, hopen, hclose, hdigits, decodeDecimal_encodeDecimal]
    rfl

theorem isWord_encodeWriteResult (wr : WriteResult) : IsWord (encodeWriteResult wr) := by
  cases wr with
  | failure => decide
  | written n =>
    have hdigits : ' ' ∉ encodeDecimal n :=
      not_mem_of_hexDigits (by decide) (decimalDigits_are_hexDigits n n)
    have hopen : ' ' ∉ tokWritten := by decide
    refine ⟨List.cons_ne_nil _ _, ?_, fun h => absurd (List.cons.inj h).1 (by decide)⟩
    simpa [encodeWriteResult, hopen] using hdigits

theorem decodeSelector_selectorName (sel : CounterSel) : decodeSelector (selectorName sel) = .ok sel := by
  cases sel <;> rfl

theorem isWord_selectorName (sel : CounterSel) : IsWord (selectorName sel) := by
  cases sel <;> decide

/-! ### Operations as lines (R68, R69) -/

/-- An operation whose one input is a byte sequence is read by its name. -/
theorem decode_encodeLine_encodeBytes {name : Token} (hname : IsWord name) (bs : Bytes) :
    decode (encodeLine name (encodeBytes bs)) = decodeOperation name (encodeBytes bs) := by
  refine decode_encodeLine fun t ht => ?_
  obtain rfl | ht := List.mem_cons.1 ht
  · exact hname
  · exact (isWord_of_mem_encodeBytes ht).1

theorem decodeSend_encode (payload : Bytes) (wr : WriteResult) :
    decodeSend (encodeBytes payload ++ [tokArrow, encodeWriteResult wr]) = .ok (.send payload wr) := by
  have hpayload : ∀ t ∈ encodeBytes payload, (t != tokArrow) = true := fun t ht => by
    simpa using (isWord_of_mem_encodeBytes ht).2
  rw [decodeSend, List.takeWhile_append_of_pos hpayload, List.dropWhile_append_of_pos hpayload]
  simp [decodeBytes_encodeBytes, decodeWriteResult_encodeWriteResult, Except.map]

theorem decode_encode_send (payload : Bytes) (wr : WriteResult) :
    decode (encode (.send payload wr)) = .ok (.send payload wr) := by
  have hwords : ∀ t ∈ nameSend :: (encodeBytes payload ++ [tokArrow, encodeWriteResult wr]), IsWord t := by
    intro t ht
    simp only [List.mem_cons, List.mem_append, List.not_mem_nil, or_false] at ht
    obtain rfl | hbytes | rfl | rfl := ht
    · decide
    · exact (isWord_of_mem_encodeBytes hbytes).1
    · decide
    · exact isWord_encodeWriteResult wr
  exact (decode_encodeLine hwords).trans (decodeSend_encode payload wr)

theorem decode_encode_rdcnt (sel : CounterSel) : decode (encode (.rdcnt sel)) = .ok (.rdcnt sel) := by
  have hwords : ∀ t ∈ [nameRdcnt, selectorName sel], IsWord t := by
    simpa using ⟨(by decide : IsWord nameRdcnt), isWord_selectorName sel⟩
  calc decode (encode (.rdcnt sel))
      = (decodeSelector (selectorName sel)).map Instr.rdcnt := decode_encodeLine hwords
    _ = .ok (.rdcnt sel) := by rw [decodeSelector_selectorName]; rfl

/-! ### Wire patterns as chunks (R60, R61) -/

theorem byteAt_last_pair (d : Bytes) (h l : Byte) : byteAt (d ++ [h, l]) ((d ++ [h, l]).length - 2) = h ∧
    byteAt (d ++ [h, l]) ((d ++ [h, l]).length - 1) = l := by
  simp [byteAt]

theorem wellFormed_frame_iff (p : Bytes) (h l : Byte) :
    wellFormed (.frame p h l) = true ↔ h = hi8 (crc16 (frameBody p)) ∧ l = lo8 (crc16 (frameBody p)) := by
  simp [wellFormed, frameCrcMatches, crcField]

/-- The frames of R60 are what `ENCODE` returns (R90). -/
theorem isFrame_iff (c : Bytes) : isFrame c = true ↔ ∃ p, c = encodeFrame p := by
  constructor
  · intro h
    rw [isFrame, Bool.and_eq_true, beq_iff_eq] at h
    exact ⟨_, h.2⟩
  · rintro ⟨p, rfl⟩
    simp [isFrame, encodeFrame_length, stripPayload_encodeFrame]

/-- A frame is longer than a delimiter. -/
theorem encodeFrame_ne_delimBytes (p : Bytes) (d : Delimiter) : encodeFrame p ≠ delimBytes d := by
  intro h
  have hlen := congrArg List.length h
  rw [encodeFrame_length, delimBytes] at hlen
  simp at hlen

/-- A frame is read as its payload and its CRC bytes. -/
theorem decodeChunk_encodeFrame (p : Bytes) :
    decodeChunk (encodeFrame p) = .frame p (hi8 (crc16 (frameBody p))) (lo8 (crc16 (frameBody p))) := by
  obtain ⟨hhigh, hlow⟩ : byteAt (encodeFrame p) ((encodeFrame p).length - 2) = hi8 (crc16 (frameBody p)) ∧
    byteAt (encodeFrame p) ((encodeFrame p).length - 1) = lo8 (crc16 (frameBody p)) := byteAt_last_pair _ _ _
  rw [decodeChunk, if_neg (encodeFrame_ne_delimBytes p _), if_neg (encodeFrame_ne_delimBytes p _),
    if_pos ((isFrame_iff _).2 ⟨p, rfl⟩), stripPayload_encodeFrame, hhigh, hlow]

/-- What a chunk can be read as (log entry 1). -/
theorem decodeChunk_cases (c : Bytes) :
    (c = delimBytes startMark ∧ decodeChunk c = .startDelim) ∨ (c = delimBytes endMark ∧ decodeChunk c = .endDelim) ∨
      (∃ p, c = encodeFrame p) ∨ decodeChunk c = .feed c := by
  by_cases hs : c = delimBytes startMark
  · exact .inl ⟨hs, if_pos hs⟩
  by_cases he : c = delimBytes endMark
  · exact .inr (.inl ⟨he, by rw [decodeChunk, if_neg hs, if_pos he]⟩)
  by_cases hf : isFrame c = true
  · exact .inr (.inr (.inl ((isFrame_iff c).1 hf)))
  · exact .inr (.inr (.inr (by rw [decodeChunk, if_neg hs, if_neg he, if_neg hf])))

/-- Settles O57: a pattern's meaning is the `FEED` of the bytes that are read as it. -/
theorem everyChunkIsFed : Obligations.EveryChunkIsFed := by
  intro c
  refine ⟨decodeChunk c, rfl, ?_⟩
  obtain ⟨rfl, hd⟩ | ⟨rfl, hd⟩ | ⟨p, rfl⟩ | hd := decodeChunk_cases c
  case inr.inr.inl =>
    rw [decodeChunk_encodeFrame]
    exact ⟨(wellFormed_frame_iff _ _ _).2 ⟨rfl, rfl⟩, fun _ => rfl⟩
  all_goals
    rw [hd]
    exact ⟨rfl, fun _ => rfl⟩

/-! ### Every well-formed instruction -/

/-- Settles O56: the operations by their lines, the wire patterns by their chunks. -/
theorem decodeInvertsEncode : Obligations.DecodeInvertsEncode := by
  intro i hwf
  cases i with
  | crc16 bs | encode bs | verify bs | feed bs =>
    refine (decode_encodeLine_encodeBytes (by decide) bs).trans ?_
    exact congrArg (Except.map _) (decodeBytes_encodeBytes bs)
  | send payload wr => exact decode_encode_send payload wr
  | rdcnt sel => exact decode_encode_rdcnt sel
  | reset | startDelim | endDelim => rfl
  | frame p h l =>
    obtain ⟨rfl, rfl⟩ := (wellFormed_frame_iff p h l).1 hwf
    exact congrArg Except.ok (decodeChunk_encodeFrame p)

/-- Settles O58: the lines and chunks are those that the encoder writes, the table's numbers those of the delimiters, and
`POKE` is no name. -/
theorem writtenWordsDecode : Obligations.WrittenWordsDecode :=
  ⟨decodeInvertsEncode (.feed [0xAA, 0xBB, 0x41, 0x42]) rfl,
    decodeInvertsEncode (.send [0x41, 0x42] (.written 8)) rfl,
    decodeInvertsEncode (.rdcnt .lostPackets) rfl, decodeInvertsEncode .reset rfl,
    decodeInvertsEncode .startDelim rfl, decodeInvertsEncode .endDelim rfl,
    decodeInvertsEncode (.frame [0x41, 0x42] 0x7B 0xDD) (by decide +kernel),
    by decide +kernel, by decide +kernel, rfl⟩

end Sys2Proof
end

section
/-! SUPPORT. The wire patterns (30_encoding.md R60, R61) as chunks that arrive (log entry 1): a delimiter behind the buffer,
and a whole frame. -/

namespace Sys2Proof.Machine

open Sys2Proof.Safety

/-- Settles O37: each pattern's meaning is that of `FEED` on its bytes. -/
theorem wirePatternsArriveAsChunks : Obligations.WirePatternsArriveAsChunks := by
  refine ⟨fun _ => rfl, fun _ => rfl, fun p h l s => ?_⟩
  have hbytes : wireFrame p h l = [0xAA, 0xBB] ++ p ++ [0xCC, 0xDD, h, l] :=
    List.append_assoc ([0xAA, 0xBB] ++ p) [0xCC, 0xDD] [h, l]
  rw [← hbytes]
  rfl

/-! ### A delimiter behind the buffer -/

theorem not_occursAt_of_not_contains {b : Bytes} {d : Delimiter} (h : contains b d = false) (i : Nat) :
    ¬ occursAt b d i :=
  (find_eq_none_iff _ _ _).1 (find_eq_none_of_not_contains h) i (Nat.zero_le i)

/-- A `START` behind a quiescent buffer has no `END` behind it, and none comes behind the others. -/
theorem quiescent_append_startMark {b : Bytes} (h : quiescent b = true) :
    quiescent (b ++ delimBytes startMark) = true := by
  rw [quiescent_iff_occursAt] at h ⊢
  intro i j hi hj
  have hend : occursAt b endMark j := by
    obtain hj | ⟨m, -, hm⟩ := (occursAt_append_iff (by decide) j).1 hj
    · exact hj
    · exact absurd hm (not_occursAt_of_not_contains (by decide) m)
  obtain hi | ⟨m, rfl, -⟩ := (occursAt_append_iff (by decide) i).1 hi
  · exact h i j hi hend
  · have hlen := lt_length_of_occursAt hend
    omega

/-- Settles O38: the appended buffer is quiescent. -/
theorem startArrivalIsKept : Obligations.StartArrivalIsKept :=
  fun _ h => exec_feed_quiescent (quiescent_append_startMark h)

/-- An `END` behind a START-free buffer makes no `START`. -/
theorem startFree_append_endMark {b : Bytes} (h : startFree b) : startFree (b ++ delimBytes endMark) := by
  rw [startFree, ← Bool.not_eq_true, contains_eq_true_iff]
  rintro ⟨j, hj⟩
  obtain hj | ⟨m, -, hm⟩ := (occursAt_append_iff (by decide) j).1 hj
  · exact not_occursAt_of_not_contains h j hj
  · exact not_occursAt_of_not_contains (by decide) m hm

/-- An `END` behind a waiting `START` ends the first candidate packet and the buffer. -/
theorem firstPacket_append_endMark {b : Bytes} {i : Nat} (hi : find b startMark 0 = some i)
    (hnone : find b endMark (i + 2) = none) :
    FirstPacket (b ++ delimBytes endMark) (b.drop i ++ delimBytes endMark) [] := by
  have hbounds := find_bounds hi
  have hj : find (b ++ delimBytes endMark) endMark (i + 2) = some (b.length + 0) := by
    refine find_append_right (by decide) hnone ?_
    rw [Nat.sub_eq_zero_of_le hbounds.2]
    decide
  have hstop : (b ++ delimBytes endMark).length ≤ b.length + 0 + 4 := by
    simp [delimBytes]
  refine ⟨i, _, find_append_left hi _, hj, ?_, List.drop_eq_nil_of_le hstop⟩
  rw [slice, List.take_of_length_le hstop, List.drop_append_of_le_length (by omega)]

/-- Settles O39: at a START-free buffer the appended one is quiescent; behind a `START` the one candidate packet ends the
buffer, and its check decides the event. -/
theorem endArrivalCompletesOrWaits : Obligations.EndArrivalCompletesOrWaits := by
  refine ⟨fun s h => ?_, fun s i hi hnone => ?_⟩
  · have hfree := find_eq_none_of_not_contains (startFree_append_endMark h)
    exact exec_feed_quiescent ((quiescent_eq_true_iff _).2 (.inl hfree))
  · have hfirst : FirstPacket (s.rxbuf ++ [0xCC, 0xDD]) (s.rxbuf.drop i ++ [0xCC, 0xDD]) [] :=
      firstPacket_append_endMark hi hnone
    have hlen : (s.rxbuf.drop i ++ [0xCC, 0xDD]).length = s.rxbuf.length - i + 2 := by simp
    rw [← hlen]
    generalize s.rxbuf.drop i ++ [0xCC, 0xDD] = packet at hfirst ⊢
    cases hv : verifyPacket packet with
    | true => exact ⟨_, _, exec_feed_last_good hfirst hv, rfl, rfl, rfl, rfl, Bool.noConfusion, fun _ => ⟨rfl, rfl⟩⟩
    | false => exact ⟨_, _, exec_feed_last_bad hfirst hv, rfl, rfl, rfl, rfl, fun _ => ⟨rfl, rfl⟩, Bool.noConfusion⟩

/-! ### A whole frame -/

/-- Settles O40: a well-formed frame is what `ENCODE` returns, and the START-free buffer is junk in front of it. -/
theorem frameArrivalIsDelivered : Obligations.FrameArrivalIsDelivered := by
  intro p h l s hwf hp hs
  obtain ⟨rfl, rfl⟩ := (wellFormed_frame_iff p h l).1 hwf
  exact exec_feed_frame (c := encodeFrame p) hs hp rfl

end Sys2Proof.Machine
end

section
/-! SUPPORT. The counters' operations and reset (43_counters.md, 70_reset_and_hazards.md), and the limits of a finite build
(93_implementation_defined.md U1, U2). -/

namespace Sys2Proof.Machine

/-! ### `SEND`, `RDCNT`, `RESET` -/

/-- Settles O41: a successful write is accounted, and the answer given back. -/
theorem sendCountsASuccessfulWrite : Obligations.SendCountsASuccessfulWrite :=
  fun payload n s => execSend_eq payload (.written n) s

theorem exec_rdcnt (sel : CounterSel) (s : State) :
    exec (.rdcnt sel) s = .next { s with outbox := s.outbox ++ [.counter (readCounter s sel)] } := rfl

/-- Settles O43: selector by selector. -/
theorem rdcntReturnsTheCounter : Obligations.RdcntReturnsTheCounter :=
  fun s => ⟨exec_rdcnt .totalSentBytes s, exec_rdcnt .totalReceivedBytes s, exec_rdcnt .totalPacketsSent s,
    exec_rdcnt .totalPacketsReceived s, exec_rdcnt .lostPackets s⟩

/-- Settles O48: the six elements are cleared and the mark is appended. -/
theorem resetClearsEverything : Obligations.ResetClearsEverything := fun _ => rfl

theorem readCounter_reset (sel : CounterSel) : readCounter State.reset sel = 0 := by cases sel <;> rfl

/-- Settles O49: `RDCNT` reads a counter, and each is 0. -/
theorem resetState : Obligations.ResetState := by
  refine ⟨rfl, readCounter_reset, fun sel => ?_⟩
  rw [exec_rdcnt, readCounter_reset]
  rfl

/-! ### The limits of a finite build -/

theorem countersFit_iff (b : Build) (t : State) :
    countersFit b t = true ↔ ∀ sel, counterFits b.cntW (readCounter t sel) = true := by
  simp only [countersFit, Bool.and_eq_true]
  constructor
  · rintro ⟨⟨⟨⟨hsentB, hrecvB⟩, hsentP⟩, hrecvP⟩, hlost⟩ sel
    cases sel
    exacts [hsentB, hrecvB, hsentP, hrecvP, hlost]
  · intro h
    exact ⟨⟨⟨⟨h .totalSentBytes, h .totalReceivedBytes⟩, h .totalPacketsSent⟩, h .totalPacketsReceived⟩, h .lostPackets⟩

/-- The build can hold every counter. -/
theorem completeIn_of_fits {b : Build} {t : State} (h : ∀ sel, counterFits b.cntW (readCounter t sel) = true) :
    completeIn b t = .next t :=
  if_pos ((countersFit_iff b t).2 h)

/-- A counter is beyond the build (R135). -/
theorem completeIn_of_overflow {b : Build} {t : State} (h : ∃ sel, counterFits b.cntW (readCounter t sel) = false) :
    completeIn b t = .refused .counterOverflow := by
  obtain ⟨sel, hsel⟩ := h
  exact if_neg fun hfit => by simpa [hsel] using (countersFit_iff b t).1 hfit sel

/-- `FEED` in a build: what the block answers is refused when the chunk, then the buffer, then a counter is beyond the
build. -/
theorem feedIn_eq {s t : State} {c : Bytes} (h : exec (.feed c) s = .next t) (b : Build) :
    feedIn b c s =
      if within b.chunkMax c.length = false then .refused .chunkTooLong
      else if within b.rxbufCap (s.rxbuf.length + c.length) = false then .refused .rxbufOverflow
      else completeIn b t := by
  cases h
  simp only [feedIn, Bool.not_eq_true']

theorem sendIn_eq {s t : State} {p : Bytes} {wr : WriteResult} (h : exec (.send p wr) s = .next t) (b : Build) :
    sendIn b p wr s = completeIn b t := by
  cases h
  rfl

/-- Settles O47: the three checks of `FEED` in their order, and the one of `SEND`. -/
theorem finiteBuildAgreesOrRefuses : Obligations.FiniteBuildAgreesOrRefuses := by
  refine ⟨fun b c s t h => ?_, fun b p wr s t h => ?_⟩
  · rw [feedIn_eq h]
    refine ⟨fun hchunk hbuf hfit => ?_, fun hchunk => if_pos hchunk, fun hchunk hbuf => ?_, fun hchunk hbuf hover => ?_⟩
    · simp [hchunk, hbuf, completeIn_of_fits hfit]
    · simp [hchunk, hbuf]
    · simp [hchunk, hbuf, completeIn_of_overflow hover]
  · rw [sendIn_eq h]
    exact ⟨completeIn_of_fits, completeIn_of_overflow⟩

end Sys2Proof.Machine
end

section
/-! SUPPORT. One step (00_scope.md R10): what is presented first is what is performed, and the table's words as what is
presented (log entries 3 and 11). -/

namespace Sys2Proof.Machine

/-- Settles O54: `step` by what the first request decodes to. -/
theorem stepRunsTheDecodedInstruction : Obligations.StepRunsTheDecodedInstruction := by
  refine ⟨fun s r rest i hin hd => ?_, fun s r rest why hin hd => ?_, fun s hin => ?_⟩
  · simp [step, takeRequest, hin, hd]
  · simp [step, takeRequest, hin, hd]
  · rw [step, takeRequest_none s hin]

theorem decodeTableWord_eq (nbits w : Nat) : decodeTableWord nbits w = some (decodeChunk (tableChunk nbits w)) := rfl

/-- Settles O55: the table's word is presented as the chunk that `decodeTableWord` reads. -/
theorem fetchWordRunsNext : Obligations.FetchWordRunsNext := by
  intro s nbits w i h
  have hd : decode (.chunk (tableChunk nbits w)) = .ok i :=
    congrArg Except.ok (Option.some.inj ((decodeTableWord_eq nbits w).symm.trans h))
  exact stepRunsTheDecodedInstruction.1 (s.withFetchWord nbits w) _ s.inbox i rfl hd

end Sys2Proof.Machine
end
